-- ==== Sys2Proof/Word.lean ====
section
/-! DEFINITION. The words the TRC moves: the 32-bit command word and the one-byte register value. -/

namespace Sys2Proof

/-- A command word: R65, 32 bits, bit 0 the least significant (R66). -/
abbrev Word := BitVec 32

/-- A byte: R10, one device register (R50), a register address, or a value image. -/
abbrev Byte := BitVec 8

end Sys2Proof
end

