-- ==== Sys2Proof/Machine/RegisterMap.lean ====
section
/-! DEFINITION. The closed register set: type ids, names, addresses and capability tags (R30, R31, R47 to R49). -/

namespace Sys2Proof

/-- A register type id, 0 to 17 (R9 `NREG`, R30). -/
abbrev RegId := Fin 18

/-- One row of R30's table. -/
structure RegRow where
  /-- The spec's own mnemonic (D4), as the assembler writes it (R77). -/
  mnemonic : String
  /-- The source's name of the register; R13 settles the two spellings of the one at 0x12. -/
  sourceName : String
  /-- `ADDR(R)`. -/
  address : Byte
  /-- `WRITABLE(R)`. -/
  writable : Bool
deriving DecidableEq, Repr

/-- R30's table in id order. Ids 6 to 11 are writable by the spec's decision D9. -/
def regMap : Vector RegRow 18 := #v[
  ⟨"CHG_STATUS", "charger-status", 0x01, false⟩,
  ⟨"CHG_CONFIG0", "charger-config-0", 0x02, true⟩,
  ⟨"CHG_CONFIG1", "charger-config-1", 0x03, true⟩,
  ⟨"CHG_CONFIG2", "charger-config-2", 0x04, true⟩,
  ⟨"CHG_CONFIG3", "charger-config-3", 0x05, true⟩,
  ⟨"CHG_STATE", "charger-state", 0x06, false⟩,
  ⟨"DCDC_SETTING", "dcdc-setting", 0x07, true⟩,
  ⟨"LDO_CONTROL", "ldo-control", 0x08, true⟩,
  ⟨"CONTROL0", "control-0", 0x09, true⟩,
  ⟨"CONTROL1", "control-1", 0x0A, true⟩,
  ⟨"GPIO_SSC", "gpio-ssc", 0x0B, true⟩,
  ⟨"GPIO_CONFIG_CONTROL", "gpio-config-control", 0x0C, true⟩,
  ⟨"INT_REPORT0", "interrupt-report-0", 0x10, false⟩,
  ⟨"INT_REPORT1", "interrupt-report-1", 0x11, false⟩,
  ⟨"INT_REPORT2", "interrupt-report-2", 0x12, false⟩,
  ⟨"INT_MASK0", "interrupt-mask-0", 0xD0, true⟩,
  ⟨"INT_MASK1", "interrupt-mask-1", 0xE0, true⟩,
  ⟨"INT_MASK2", "interrupt-mask-2", 0xF0, true⟩]

/-- `ADDR(R)`, total and fixed (R33, R47). -/
def regAddress (r : RegId) : Byte := regMap[r].address

/-- `WRITABLE(R)`, the capability tag (R31). -/
def regWritable (r : RegId) : Bool := regMap[r].writable

/-- R47: the device register space's closed set of 18 addresses. -/
def addressSet : List Byte := (List.finRange 18).map regAddress

/-- Whether a byte is one of the 18 addresses; the 238 others are R48's. -/
def isRegAddress (a : Byte) : Bool := addressSet.contains a

end Sys2Proof
end

