-- ==== Sys2Proof/Machine/Layout.lean ====
section
/-! DEFINITION. The layout model of the register catalog: what a register's byte layout is (R85 to R90, R97) and
the bit-field functions over it (R91 to R96). The layouts themselves are the spec's open parameter. -/

namespace Sys2Proof

/-- R85: the kind of a layout entry. The set C of an enumeration is written in ascending order (its canonical form). -/
inductive Kind where
  | bool
  | enum (codes : List Nat)
  | rsv
deriving DecidableEq, Repr, Inhabited

/-- R85: one entry `e_i = (name, off, w, kind, settable)` of a layout. -/
structure Entry where
  name : String
  off : Nat
  width : Nat
  kind : Kind
  settable : Bool
deriving DecidableEq, Repr, Inhabited

/-- R90: the reserved-bit write policy of a register. -/
inductive Policy where
  | fixed
  | pass
deriving DecidableEq, Repr, Inhabited

/-- The open constants of one register type: `LAYOUT(R)`, `POL(R)` and `FIXV(R)` (R9, R85, R90). -/
structure RegSpec where
  layout : List Entry
  pol : Policy
  fixv : Byte
deriving DecidableEq, Repr, Inhabited

/-- R10: `mask(w) = (1 << w) - 1`, as a byte. -/
def lowMask (w : Nat) : Byte := BitVec.ofNat 8 (2 ^ w - 1)

/-- R91: `FMASK(e) = mask(w) << off`. -/
def Entry.fmask (e : Entry) : Byte := lowMask e.width <<< e.off

/-- R91: `fieldval(b, e) = (b >> off) & mask(w)`, already widened to a byte (R103's `zext_8`). -/
def Entry.fieldVal (e : Entry) (b : Byte) : Byte := (b >>> e.off) &&& lowMask e.width

/-- R104's `SetField`: the entry's bits replaced by `x << off`, every other bit kept. -/
def Entry.setField (e : Entry) (v x : Byte) : Byte := (v &&& ~~~e.fmask) ||| (x <<< e.off)

/-- R153's ILLEGAL_FIELD_VALUE test: is `x` a legal value of the entry? A RSV entry has no accessor. -/
def Entry.legalCode (e : Entry) (x : Nat) : Bool :=
  match e.kind with
  | .bool => x ≤ 1
  | .enum codes => codes.contains x
  | .rsv => false

/-- R93, for one entry: only an ENUM entry can make a byte illegal. -/
def Entry.admits (e : Entry) (b : Byte) : Bool :=
  match e.kind with
  | .enum codes => codes.contains (e.fieldVal b).toNat
  | .bool => true
  | .rsv => true

/-- R92: `RSVMASK(R)`, the or of `FMASK(e)` over the RSV entries. -/
def reservedMask : List Entry → Byte
  | [] => 0
  | e :: es => (if e.kind = .rsv then e.fmask else 0) ||| reservedMask es

/-- R93: `legal(R, b)`. -/
def RegSpec.legal (s : RegSpec) (b : Byte) : Bool := s.layout.all (·.admits b)

/-- R95: `Encode(R, v)`. -/
def RegSpec.encodeByte (s : RegSpec) (v : Byte) : Byte :=
  (v &&& ~~~reservedMask s.layout) |||
    (match s.pol with
    | .pass => v &&& reservedMask s.layout
    | .fixed => s.fixv)

/-- R86: the entries tile the bits from `pos` to 7 in ascending order. -/
def tilesFrom : Nat → List Entry → Bool
  | pos, [] => pos == 8
  | pos, e :: es => e.off == pos && tilesFrom (pos + e.width) es

/-- R87: the width each kind of entry may have, and the legal codes of an enumeration. -/
def Entry.kindOk (e : Entry) : Bool :=
  match e.kind with
  | .bool => e.width == 1
  | .enum codes =>
    decide (2 ≤ e.width) && decide (e.width ≤ 6) && !codes.isEmpty && codes.all (· < 2 ^ e.width) &&
      decide (codes.Pairwise (· < ·))
  | .rsv => decide (1 ≤ e.width) && decide (e.width ≤ 8)

/-- R88: no RSV entry and no entry of a read-only type is settable. -/
def Entry.setterOk (writable : Bool) (e : Entry) : Bool := !e.settable || (writable && decide (e.kind ≠ .rsv))

/-- R85 to R90: the constants of one register type are ones this hardware can have. -/
def RegSpec.wf (writable : Bool) (s : RegSpec) : Bool :=
  decide (1 ≤ s.layout.length) && decide (s.layout.length ≤ 8) && tilesFrom 0 s.layout && s.layout.all Entry.kindOk &&
    s.layout.all (Entry.setterOk writable) && s.fixv &&& ~~~reservedMask s.layout == 0

/-- R97: what the source fixes of the layout of CHG_CONFIG0. -/
def RegSpec.chargerConfigOk (s : RegSpec) : Bool :=
  (match s.layout.head? with
    | some e => decide (e.kind = .bool) && e.settable && e.name == "charger_enabled"
    | none => false) &&
  s.layout.any (fun e => e.width == 2 && decide (e.kind = .enum [0, 1, 2, 3])) &&
  s.legal 0 &&
  (decide (s.pol = .pass) || s.fixv == 0)

/-- The constants of all 18 types are ones this hardware can have: "a model refuses" any other (R86). -/
def specsWf (specs : Vector RegSpec 18) : Bool :=
  (List.finRange 18).all (fun r => (specs[r]).wf (regWritable r)) && (specs[1]).chargerConfigOk

/-- A smallest set of constants that meets R85 to R90 and R97. It only shows that there is one; nothing rests on it. -/
def sampleSpecs : Vector RegSpec 18 :=
  (Vector.replicate 18 ⟨[⟨"rsv", 0, 8, .rsv, false⟩], .pass, 0⟩).set 1
    ⟨[⟨"charger_enabled", 0, 1, .bool, true⟩, ⟨"ac_input_current", 1, 2, .enum [0, 1, 2, 3], true⟩,
      ⟨"rsv", 3, 5, .rsv, false⟩], .pass, 0⟩

/-- The catalog's open constants `LAYOUT`, `POL` and `FIXV` for all 18 types, with the proof that they are ones this
hardware can have. R86 asks a model to refuse any other: none can be built. -/
structure Catalog where
  specs : Vector RegSpec 18 := sampleSpecs
  wf : specsWf specs = true := by decide
deriving DecidableEq, Repr, Inhabited

/-- The constants of type `r`. -/
def Catalog.spec (c : Catalog) (r : RegId) : RegSpec := c.specs[r]

/-- R93: `legal(R, b)`; the bytes it accepts are `Value(R)` (R96). -/
def Catalog.legal (c : Catalog) (r : RegId) (b : Byte) : Bool := (c.spec r).legal b

/-- R94: `Decode(R, b)`: the byte itself, reserved bits included, or `none` for UnexpectedValue. -/
def Catalog.decodeByte (c : Catalog) (r : RegId) (b : Byte) : Option Byte := if c.legal r b then some b else none

/-- R95: `Encode(R, v)`. -/
def Catalog.encodeByte (c : Catalog) (r : RegId) (v : Byte) : Byte := (c.spec r).encodeByte v

/-- `RSVMASK(R)` (R92). -/
def Catalog.rsvMask (c : Catalog) (r : RegId) : Byte := reservedMask (c.spec r).layout

end Sys2Proof
end

