-- ==== Sys2Proof/Config.lean ====
section
/-! DEFINITION. The parameters of the TRC (R9): the fixed bus address, and the open ones the spec leaves to the
implementation: the catalog constants and the transport's error values. -/

namespace Sys2Proof

/-- R9, R46: the 7-bit bus address of every bus phase, 0x48. -/
def Config.devAddr : BitVec 7 := 0b1001000#7

/-- R9, D23: which numbers besides 0 name a value of the open parameter `BusError`. A free value: no body, so the type
may have one value, any number of them, or infinitely many, and nothing can be proved of how many (log 6). -/
opaque Config.isBusError : Nat → Bool

/-- R9, R114, D23: a value of the open parameter `BusError`. DESIGN CHOICE (log 6): a value is named by a number, so that
a state is plain data; which numbers name one is the parameter's, and nothing in the model looks at the number. -/
structure BusError where
  token : Nat
  valid : token = 0 ∨ Config.isBusError token = true
deriving DecidableEq, Repr

/-- The one value that every `BusError` has: a transport that can answer `Err(e)` has some e (DEDUCED, log 6). -/
def BusError.first : BusError := ⟨0, .inl rfl⟩

/-- R32, D11, D12: the catalog constants built into this TRC. A free value: no body, so a claim about a machine that
started at reset holds for every layout R85 to R90 and R97 allow
(DESIGN CHOICE, log 2). -/
opaque Config.catalog : Catalog

end Sys2Proof
end

