-- ==== Sys2Proof/Syntax.lean ====
section
/-! DEFINITION. The ten commands, the reasons a word is refused with, and the transform operand of EDIT_REG. -/

namespace Sys2Proof

/-- R22, R71: a 4-bit opcode. -/
abbrev Opcode := BitVec 4

@[simp] abbrev Opcode.readRaw : Opcode := 0x1#4
@[simp] abbrev Opcode.writeRaw : Opcode := 0x2#4
@[simp] abbrev Opcode.readReg : Opcode := 0x3#4
@[simp] abbrev Opcode.writeReg : Opcode := 0x4#4
@[simp] abbrev Opcode.editReg : Opcode := 0x5#4
@[simp] abbrev Opcode.decode : Opcode := 0x8#4
@[simp] abbrev Opcode.encode : Opcode := 0x9#4
@[simp] abbrev Opcode.addressOf : Opcode := 0xA#4
@[simp] abbrev Opcode.getField : Opcode := 0xB#4
@[simp] abbrev Opcode.setField : Opcode := 0xC#4

/-- One constructor per row of spec/opcode_table.json, with the fields of its format (R66 to R69) as the word holds
them; R74's value checks come after (WellFormed.lean, Machine/Operands.lean). The transform of EDIT_REG is not part
of the word (R65). -/
inductive Instr where
  /-- READ_RAW (R116). -/
  | readRaw (addr : Byte)
  /-- WRITE_RAW (R120). -/
  | writeRaw (addr data : Byte)
  /-- READ_REG (R125). -/
  | readReg (reg : BitVec 5)
  /-- WRITE_REG (R127). -/
  | writeReg (reg : BitVec 5) (data : Byte)
  /-- EDIT_REG (R129). -/
  | editReg (reg : BitVec 5)
  /-- DECODE (R100). -/
  | decode (reg : BitVec 5) (data : Byte)
  /-- ENCODE (R101). -/
  | encode (reg : BitVec 5) (data : Byte)
  /-- ADDRESS_OF (R102). -/
  | addressOf (reg : BitVec 5)
  /-- GET_FIELD (R103). -/
  | getField (reg : BitVec 5) (fld : BitVec 3) (data : Byte)
  /-- SET_FIELD (R104). -/
  | setField (reg : BitVec 5) (fld : BitVec 3) (fval : BitVec 6) (data : Byte)
deriving DecidableEq, Repr

/-- R153: the ten rejection reasons. -/
inductive Reason where
  | badOpcode
  | nonzeroRsvd
  | badReg
  | badAddr
  | readOnly
  | badField
  | fieldNotSettable
  | illegalValue
  | illegalFieldValue
  | xformIllegal
deriving DecidableEq, Repr

/-- R8, R25: the transform bound to an EDIT_REG, a pure total function from bytes to bytes, written as the table of
its 256 answers, entry `b` the answer for `b`. Only the entries of `Value(R)` are ever read (R133; DESIGN CHOICE,
log 5). -/
structure Transform where
  table : Vector Byte 256
deriving DecidableEq, Repr

/-- R78: the transform expressions of the assembler's EDIT_REG line. `fn` stands for "any pure total function written
in the model's own language". -/
inductive XExpr where
  | ident
  | set (fld : BitVec 3) (x : BitVec 6)
  | flip (fld : BitVec 3)
  | seq (first second : XExpr)
  | fn (f : Transform)
deriving DecidableEq, Repr

end Sys2Proof
end

