-- ==== Sys2Proof/WellFormed.lean ====
section
/-! DEFINITION. The static checks of a command that depend on its fields alone: the type id, the address and the
capability tag (R74, R128). The checks that look at the open layouts are made at accept (Machine/Operands.lean). -/

namespace Sys2Proof

/-- R74: REG names a type. -/
def regOk (reg : BitVec 5) : Bool := decide (reg.toNat < 18)

/-- R31, R128: REG names a writable type. -/
def regOkWritable (reg : BitVec 5) : Bool :=
  if h : reg.toNat < 18 then regWritable ⟨reg.toNat, h⟩ else false

/-- A command whose fields pass R74's checks and the capability check. An ill-formed one is still a command: the
machine takes its word and answers REJECTED (R153, R155). -/
def Instr.wellFormed : Instr → Bool
  | .readRaw addr => isRegAddress addr
  | .writeRaw addr _ => isRegAddress addr
  | .readReg reg => regOk reg
  | .writeReg reg _ => regOkWritable reg
  | .editReg reg => regOkWritable reg
  | .decode reg _ => regOk reg
  | .encode reg _ => regOk reg
  | .addressOf reg => regOk reg
  | .getField reg _ _ => regOk reg
  | .setField reg _ _ _ => regOkWritable reg

end Sys2Proof
end

