-- ==== Sys2Proof/Decode.lean ====
section
/-! DEFINITION. Decoding a command word by R72's patterns, total and rejecting by name, and the encoder. -/

namespace Sys2Proof

/-- R66: OP, bits 3..0. -/
def opField (w : Word) : Opcode := w.extractLsb' 0 4

/-- R66: REG, bits 8..4. -/
def regField (w : Word) : BitVec 5 := w.extractLsb' 4 5

/-- R66: FLD, bits 11..9. -/
def fldField (w : Word) : BitVec 3 := w.extractLsb' 9 3

/-- R66: ADDR, bits 23..16. -/
def addrField (w : Word) : Byte := w.extractLsb' 16 8

/-- R66: FVAL, bits 21..16. -/
def fvalField (w : Word) : BitVec 6 := w.extractLsb' 16 6

/-- R66: DATA, bits 31..24. -/
def dataField (w : Word) : Byte := w.extractLsb' 24 8

/-- R72: a row of the pattern table, with the command its free fields spell. -/
structure Pattern where
  value : Word
  mask : Word
  instr : Instr
deriving DecidableEq, Repr

/-- R71, R72: the row the word's OP selects (MATCH, MASK, and the command with the word's free fields); no row for an
opcode that spells no command (R73). -/
def patternOf (w : Word) : Option Pattern :=
  match (opField w).toNat with
  | 0x1 => some ⟨0x00000001, 0xFF00FFFF, .readRaw (addrField w)⟩
  | 0x2 => some ⟨0x00000002, 0x0000FFFF, .writeRaw (addrField w) (dataField w)⟩
  | 0x3 => some ⟨0x00000003, 0xFFFFFE0F, .readReg (regField w)⟩
  | 0x4 => some ⟨0x00000004, 0x00FFFE0F, .writeReg (regField w) (dataField w)⟩
  | 0x5 => some ⟨0x00000005, 0xFFFFFE0F, .editReg (regField w)⟩
  | 0x8 => some ⟨0x00000008, 0x00FFFE0F, .decode (regField w) (dataField w)⟩
  | 0x9 => some ⟨0x00000009, 0x00FFFE0F, .encode (regField w) (dataField w)⟩
  | 0xA => some ⟨0x0000000A, 0xFFFFFE0F, .addressOf (regField w)⟩
  | 0xB => some ⟨0x0000000B, 0x00FFF00F, .getField (regField w) (fldField w) (dataField w)⟩
  | 0xC => some ⟨0x0000000C, 0x00C0F00F, .setField (regField w) (fldField w) (fvalField w) (dataField w)⟩
  | _ => none

/-- R72, R73, R80: the command a word spells, or the reason it spells none. -/
def decode (w : Word) : Except Reason Instr :=
  match patternOf w with
  | some p => if w &&& p.mask = p.value then .ok p.instr else .error .nonzeroRsvd
  | none => .error .badOpcode

/-- R67: format R, `DATA | ADDR | 0 | OP`. -/
def formatR (op : Opcode) (addr data : Byte) : Word := data ++ addr ++ 0#12 ++ op

/-- R68: format T, `DATA | 0 | REG | OP`. -/
def formatT (op : Opcode) (reg : BitVec 5) (data : Byte) : Word := data ++ 0#15 ++ reg ++ op

/-- R69: format F, `DATA | 0 | FVAL | 0 | FLD | REG | OP`. -/
def formatF (op : Opcode) (reg : BitVec 5) (fld : BitVec 3) (fval : BitVec 6) (data : Byte) : Word :=
  data ++ 0#2 ++ fval ++ 0#4 ++ fld ++ reg ++ op

/-- The word of a command, from the formats of R67 to R69 and the opcodes of R71. -/
def encode : Instr → Word
  | .readRaw addr => formatR .readRaw addr 0
  | .writeRaw addr data => formatR .writeRaw addr data
  | .readReg reg => formatT .readReg reg 0
  | .writeReg reg data => formatT .writeReg reg data
  | .editReg reg => formatT .editReg reg 0
  | .decode reg data => formatT .decode reg data
  | .encode reg data => formatT .encode reg data
  | .addressOf reg => formatT .addressOf reg 0
  | .getField reg fld data => formatF .getField reg fld 0 data
  | .setField reg fld fval data => formatF .setField reg fld fval data

/-- The 32-bit word whose low `nbits` bits are those of `w`, the rest 0. -/
def tableWord (nbits w : Nat) : Word := BitVec.ofNat 32 (w % 2 ^ nbits)

/-- The instruction the decoder reads from a word of the opcode table. -/
def decodeTableWord (nbits w : Nat) : Option Instr :=
  match decode (tableWord nbits w) with
  | .ok i => some i
  | .error _ => none

end Sys2Proof
end

