-- ==== Sys2Proof/Machine/State.lean ====
section
/-! DEFINITION. The state of the TRC (R20 to R29), the inputs it reads from its two ports, and the reset state (R38). -/

namespace Sys2Proof.Machine

/-- R26: the eight states of the sequencer `st`. -/
inductive FsmState where
  | idle
  | rsel
  | rfetch
  | dec
  | xf
  | enc
  | wsel
  | wdata
deriving DecidableEq, Repr

/-- R28, R150: the response status. -/
inductive Status where
  | ok
  | transport
  | unexpectedValue
  | rejected
deriving DecidableEq, Repr

/-- R28: the response register. `reason = none` is the field value 0, `terr = none` is "none". -/
structure Resp where
  status : Status
  reason : Option Reason
  data : Byte
  terr : Option BusError
deriving DecidableEq, Repr

/-- R111: the transport's answer to a bus write. -/
inductive WriteAnswer where
  | ok
  | err (e : BusError)
deriving DecidableEq, Repr

/-- R112: the transport's answer to a one-byte bus read. -/
inductive ReadAnswer where
  | ok (b : Byte)
  | err (e : BusError)
deriving DecidableEq, Repr

/-- R29: one bus phase of the trace. Every phase moves exactly one byte (R52): `bw dev b r` is `BW(dev, [b], r)` and
`br dev r` is `BR(dev, 1, r)`. -/
inductive Phase where
  | bw (dev : BitVec 7) (b : Byte) (result : WriteAnswer)
  | br (dev : BitVec 7) (result : ReadAnswer)
deriving DecidableEq, Repr

/-- R8: what the caller submits: a command word, and the transform bound to it (looked at by EDIT_REG alone). -/
structure Submission where
  word : Word
  xf : Transform
deriving DecidableEq, Repr

/-- The whole state. The fields down to `trace` are R20's; `catalog` holds the constants of R32 (DESIGN CHOICE, log
2); the last three are the model's own, the inputs waiting at the two ports (DESIGN CHOICE, log 3 and log 4). -/
structure State where
  /-- R26. -/
  st : FsmState
  /-- R22. -/
  op : Opcode
  /-- R23. -/
  rid : RegId
  /-- R24. -/
  a : Byte
  /-- R24. -/
  d : Byte
  /-- R24. -/
  v : Byte
  /-- R25. -/
  xf : Transform
  /-- R28. -/
  resp : Resp
  /-- R28. -/
  respValid : Bool
  /-- R29, oldest first. -/
  trace : List Phase
  /-- R32, R38: the catalog constants at their build-time values; no step writes them. -/
  catalog : Catalog
  /-- R8: the command port. The head is the word offered now, the rest what the caller presents after it. -/
  port : List Submission
  /-- R111: the transport's answers to the coming bus writes, first one first; none left is a phase not answered. -/
  writeAnswers : List WriteAnswer
  /-- R112: the transport's answers to the coming bus reads. -/
  readAnswers : List ReadAnswer
deriving DecidableEq, Repr

/-- The reasons a step can stop. -/
inductive Fault where
  /-- Raised by the step out of RFETCH or DEC when `op` is none of the commands R140's table gives a transition for
  there. No run from reset meets it (Safety.lean's `Inv`), so it is safe. -/
  | noTransition
deriving DecidableEq, Repr

/-- The reasons an instruction has no meaning. -/
inductive Refusal where
  /-- Raised by an arm of `exec` whose instruction is not modelled yet; no arm raises it now. Safe. -/
  | notModelled (mnemonic : String)
deriving DecidableEq, Repr

/-- R38, R175: the TRC just constructed. The latches and `resp` are unspecified there; the zeros are DESIGN CHOICE
(log 1). Both ports are empty: nothing offered, nothing answered (log 3, log 4). -/
def State.reset : State where
  st := .idle
  op := 0
  rid := 0
  a := 0
  d := 0
  v := 0
  xf := ⟨Vector.replicate 256 0⟩
  resp := ⟨.ok, none, 0, none⟩
  respValid := false
  trace := []
  catalog := Config.catalog
  port := []
  writeAnswers := []
  readAnswers := []

end Sys2Proof.Machine
end

