-- ==== Sys2Proof/Machine/Flags.lean ====
section
/-! DEFINITION. The response status, the TRC's only flag set (R35): its codes, the four kinds of outcome (R150) and the
packed response word (R76). -/

namespace Sys2Proof.Machine

/-- R28, R150: the status code. -/
def Status.code : Status → BitVec 4
  | .ok => 0
  | .transport => 1
  | .unexpectedValue => 2
  | .rejected => 3

/-- R153: the reason code. -/
def reasonCode : Reason → BitVec 4
  | .badOpcode => 1
  | .nonzeroRsvd => 2
  | .badReg => 3
  | .badAddr => 4
  | .readOnly => 5
  | .badField => 6
  | .fieldNotSettable => 7
  | .illegalValue => 8
  | .illegalFieldValue => 9
  | .xformIllegal => 10

/-- R28: the 4-bit `reason` field. -/
def Resp.reasonBits (r : Resp) : BitVec 4 :=
  match r.reason with
  | some x => reasonCode x
  | none => 0

/-- R76: `0 | data | reason | status`. -/
def Resp.pack (r : Resp) : Word := 0#16 ++ r.data ++ r.reasonBits ++ r.status.code

/-- `OK(x)`: status 0, reason 0, data x, terr none. -/
def Resp.okay (x : Byte) : Resp := ⟨.ok, none, x, none⟩

/-- `TRANSPORT(e)`: status 1, reason 0, data 0, terr e (R151). -/
def Resp.transportError (e : BusError) : Resp := ⟨.transport, none, 0, some e⟩

/-- `UNEXPECTED_VALUE`: status 2, reason 0, data 0, terr none (R152). -/
def Resp.unexpected : Resp := ⟨.unexpectedValue, none, 0, none⟩

/-- `REJECTED(r)`: status 3, reason r, data 0, terr none (R155). -/
def Resp.reject (r : Reason) : Resp := ⟨.rejected, some r, 0, none⟩

/-- R28, R150: the four fields agree with the status: a reason exactly when REJECTED, a transport error exactly when
TRANSPORT, data 0 unless OK. -/
def Resp.consistent (r : Resp) : Bool :=
  match r.status with
  | .ok => r.reason.isNone && r.terr.isNone
  | .transport => r.reason.isNone && r.terr.isSome && r.data == 0
  | .unexpectedValue => r.reason.isNone && r.terr.isNone && r.data == 0
  | .rejected => r.reason.isSome && r.terr.isNone && r.data == 0

end Sys2Proof.Machine
end

