-- ==== Sys2Proof/Machine/Transforms.lean ====
section
/-! DEFINITION. Transforms as functions (R8, R25): a table's answer, the table of a function, and the source's typing. -/

namespace Sys2Proof

/-- The transform's answer for a byte. -/
def Transform.apply (t : Transform) (b : Byte) : Byte := t.table[b.toNat]

/-- The transform that is a given function. -/
def Transform.ofFun (f : Byte → Byte) : Transform := ⟨Vector.ofFn fun i => f (BitVec.ofFin i)⟩

/-- R78: `id`. -/
def Transform.identity : Transform := .ofFun fun v => v

/-- Whether a transform answers a value of type `r` for every value of type `r`: the source's type `R -> R` (R134). -/
def Transform.typed (c : Catalog) (r : RegId) (t : Transform) : Bool :=
  (List.range 256).all fun n => !c.legal r (BitVec.ofNat 8 n) || c.legal r (t.apply (BitVec.ofNat 8 n))

end Sys2Proof
end

