-- ==== Sys2Proof/Machine/Ops.lean ====
section
/-! DEFINITION. The shared operations over the state: the command port, ending a command (R150, R157), starting a
multi-step one (R140), the two bus primitives (R111, R112) and accepting a command (R141). -/

namespace Sys2Proof.Machine

/-- R27: `cmd_ready`. -/
def State.cmdReady (s : State) : Bool := decide (s.st = .idle)

/-- R8: what the caller reads on the response port, when `resp_valid` is 1 (R182). -/
def State.readResponse (s : State) : Option Resp := if s.respValid then some s.resp else none

/-- R8: the caller puts a word on the command port, ahead of those it presents later. -/
def State.offer (s : State) (sub : Submission) : State := { s with port := sub :: s.port }

/-- R8: the transform bound to the word offered; the identity stands where no word is offered. -/
def State.offeredXf (s : State) : Transform :=
  match s.port with
  | sub :: _ => sub.xf
  | [] => Transform.identity

/-- The word offered is taken off the port. -/
def State.takeWord (s : State) : State := { s with port := s.port.tail }

/-- R150, R157: a command ends: `resp` and `resp_valid` are written and `st` is IDLE. The one operation by which a
command ends, with a result or with an error; an error saves nothing else, and there is no return from it (R159). -/
def State.finish (s : State) (r : Resp) : State := { s with st := .idle, resp := r, respValid := true }

/-- R151: `raise Transport(e)`. -/
def State.raiseTransport (s : State) (e : BusError) : State := s.finish (.transportError e)

/-- R152: `raise UnexpectedValue`. -/
def State.raiseUnexpectedValue (s : State) : State := s.finish .unexpected

/-- R153, R155: `raise Rejected(r)`. -/
def State.raiseRejected (s : State) (r : Reason) : State := s.finish (.reject r)

/-- R140: a multi-step command starts: `op` is latched, `resp_valid` is 0 and `st` is its first state. -/
def State.start (s : State) (op : Opcode) (first : FsmState) : State :=
  { s with st := first, op := op, respValid := false }

/-- A bus write has been answered: the answer is used up and the phase is in the trace (R29, R111, R115). -/
def State.didWrite (s : State) (b : Byte) (r : WriteAnswer) : State :=
  { s with writeAnswers := s.writeAnswers.tail, trace := s.trace ++ [.bw Config.devAddr b r] }

/-- A bus read has been answered (R29, R112, R115). -/
def State.didRead (s : State) (r : ReadAnswer) : State :=
  { s with readAnswers := s.readAnswers.tail, trace := s.trace ++ [.br Config.devAddr r] }

/-- What a step answers. -/
abbrev StepResult := Host.Outcome State Fault Refusal

/-- R111, R113: `BusWrite(DEV_ADDR, [b])`. An unanswered phase leaves the state as it is (DESIGN CHOICE,
log 7). -/
def busWrite (s : State) (b : Byte) (onAnswer : WriteAnswer → State → StepResult) : StepResult :=
  match s.writeAnswers with
  | [] => .next s
  | r :: _ => onAnswer r (s.didWrite b r)

/-- R112, R113: `BusRead(DEV_ADDR, 1)`. -/
def busRead (s : State) (onAnswer : ReadAnswer → State → StepResult) : StepResult :=
  match s.readAnswers with
  | [] => .next s
  | r :: _ => onAnswer r (s.didRead r)

/-- R141, R155: accepting the command offered. Only in IDLE is it taken (R27, R182; while busy nothing happens to it).
`checks` are the rejection checks in R154's order; the first that fails is the reason answered. `run` is what the
command does in its accepting step when they all pass. -/
def accept {α : Type} (s : State) (checks : Except Reason α) (run : α → State → State) : StepResult :=
  .next <|
    if s.st = .idle then
      match checks with
      | .error r => s.takeWord.raiseRejected r
      | .ok x => run x s.takeWord
    else s

end Sys2Proof.Machine
end

