-- ==== Sys2Proof/Machine/Operands.lean ====
section
/-! DEFINITION. The operands of a command and their rejection checks (R74, R153), and the transform operand (R25, R78). -/

namespace Sys2Proof.Machine

/-- R74: the register type REG names, else BAD_REG. -/
def typeOf (reg : BitVec 5) : Except Reason RegId :=
  if h : reg.toNat < 18 then .ok ⟨reg.toNat, h⟩ else .error .badReg

/-- R74, R48: the ADDR of a raw command, else BAD_ADDR. -/
def rawAddress (addr : Byte) : Except Reason Byte := if isRegAddress addr then .ok addr else .error .badAddr

/-- R31, R128: READ_ONLY unless the type is writable. -/
def requireWritable (r : RegId) : Except Reason Unit := if regWritable r then .ok () else .error .readOnly

/-- R103, R104, R153: the entry FLD names, else BAD_FIELD (no such entry, or a RSV one). -/
def entryOf (c : Catalog) (r : RegId) (fld : BitVec 3) : Except Reason Entry :=
  match (c.spec r).layout[fld.toNat]? with
  | some e => if e.kind = .rsv then .error .badField else .ok e
  | none => .error .badField

/-- R153: FIELD_NOT_SETTABLE. -/
def requireSettable (e : Entry) : Except Reason Unit := if e.settable then .ok () else .error .fieldNotSettable

/-- R153: ILLEGAL_VALUE. -/
def requireLegal (c : Catalog) (r : RegId) (v : Byte) : Except Reason Unit :=
  if c.legal r v then .ok () else .error .illegalValue

/-- R153: ILLEGAL_FIELD_VALUE. -/
def requireLegalCode (e : Entry) (x : BitVec 6) : Except Reason Unit :=
  if e.legalCode x.toNat then .ok () else .error .illegalFieldValue

/-- R104, R154: all the checks of SET_FIELD but the one on its DATA and those on the layout's codes; the entry it sets. -/
def settableEntry (c : Catalog) (r : RegId) (fld : BitVec 3) : Except Reason Entry := do
  requireWritable r
  let e ← entryOf c r fld
  requireSettable e
  return e

/-- R78: the function an expression denotes on values of type `r`; `none` for an ill-formed one. `t1 ; t2` needs `t1`
to answer values of the type, since `t2` denotes a function on those alone (DEDUCED, log 8). -/
def denote (c : Catalog) (r : RegId) : XExpr → Option Transform
  | .ident => some Transform.identity
  | .set fld x =>
    match settableEntry c r fld with
    | .ok e => if e.legalCode x.toNat then some (.ofFun fun v => e.setField v (x.setWidth 8)) else none
    | .error _ => none
  | .flip fld =>
    match settableEntry c r fld with
    | .ok e => if e.kind = .bool then some (.ofFun fun v => e.setField v (1 - e.fieldVal v)) else none
    | .error _ => none
  | .seq t1 t2 =>
    match denote c r t1, denote c r t2 with
    | some f, some g => if f.typed c r then some (.ofFun fun v => g.apply (f.apply v)) else none
    | _, _ => none
  | .fn f => some f

end Sys2Proof.Machine
end

