-- ==== Sys2Proof/Machine/CatalogCommands.lean ====
section
/-! DEFINITION. The five catalog commands (R100 to R105): one step, no bus phase, nothing written but the response. -/

namespace Sys2Proof.Machine

/-- R100: DECODE. -/
def execDecode (reg : BitVec 5) (data : Byte) (s : State) : StepResult :=
  accept s (typeOf reg) fun r t =>
    match t.catalog.decodeByte r data with
    | some v => t.finish (.okay v)
    | none => t.raiseUnexpectedValue

/-- R101: ENCODE. -/
def execEncode (reg : BitVec 5) (data : Byte) (s : State) : StepResult :=
  accept s (do
      let r ← typeOf reg
      requireLegal s.catalog r data
      return r)
    fun r t => t.finish (.okay (t.catalog.encodeByte r data))

/-- R102: ADDRESS_OF. -/
def execAddressOf (reg : BitVec 5) (s : State) : StepResult :=
  accept s (typeOf reg) fun r t => t.finish (.okay (regAddress r))

/-- R103: GET_FIELD. -/
def execGetField (reg : BitVec 5) (fld : BitVec 3) (data : Byte) (s : State) : StepResult :=
  accept s (do
      let r ← typeOf reg
      let e ← entryOf s.catalog r fld
      requireLegal s.catalog r data
      return e)
    fun e t => t.finish (.okay (e.fieldVal data))

/-- R104: SET_FIELD, its checks in the order of R154. -/
def execSetField (reg : BitVec 5) (fld : BitVec 3) (fval : BitVec 6) (data : Byte) (s : State) : StepResult :=
  accept s (do
      let r ← typeOf reg
      let e ← settableEntry s.catalog r fld
      requireLegal s.catalog r data
      requireLegalCode e fval
      return e)
    fun e t => t.finish (.okay (e.setField data (fval.setWidth 8)))

end Sys2Proof.Machine
end

