-- ==== Sys2Proof/Machine/RawCommands.lean ====
section
/-! DEFINITION. The accepting step of the two raw commands (R116, R120, R140); the steps after it are the
sequencer's (Machine/Sequencer.lean). No capability check (R121) and no decode (R119). -/

namespace Sys2Proof.Machine

/-- R116: READ_RAW. -/
def execReadRaw (addr : Byte) (s : State) : StepResult :=
  accept s (rawAddress addr) fun a t => { t.start .readRaw .rsel with a := a }

/-- R120: WRITE_RAW. -/
def execWriteRaw (addr data : Byte) (s : State) : StepResult :=
  accept s (rawAddress addr) fun a t => { t.start .writeRaw .wsel with a := a, d := data }

end Sys2Proof.Machine
end

