-- ==== Sys2Proof/Machine/TypedCommands.lean ====
section
/-! DEFINITION. The accepting step of the three typed commands (R125, R127, R129, R140); the steps after it are the
sequencer's (Machine/Sequencer.lean). -/

namespace Sys2Proof.Machine

/-- R125: READ_REG. -/
def execReadReg (reg : BitVec 5) (s : State) : StepResult :=
  accept s (typeOf reg) fun r t => { t.start .readReg .rsel with rid := r, a := regAddress r }

/-- R127, R128: WRITE_REG. -/
def execWriteReg (reg : BitVec 5) (data : Byte) (s : State) : StepResult :=
  accept s (do
      let r ← typeOf reg
      requireWritable r
      requireLegal s.catalog r data
      return r)
    fun r t => { t.start .writeReg .enc with rid := r, a := regAddress r, v := data }

/-- R129, R128: EDIT_REG, with the transform bound to the word at submit (R8). -/
def execEditReg (reg : BitVec 5) (s : State) : StepResult :=
  accept s (do
      let r ← typeOf reg
      requireWritable r
      return r)
    fun r t => { t.start .editReg .rsel with rid := r, a := regAddress r, xf := s.offeredXf }

end Sys2Proof.Machine
end

