-- ==== Sys2Proof/Machine/Dispatch.lean ====
section
/-! DEFINITION. The command offered in IDLE to its meaning: what its accepting step does (R140, R141). -/

namespace Sys2Proof.Machine

def exec (i : Instr) (s : State) : Host.Outcome State Fault Refusal :=
  match i with
  | .readRaw addr => Sys2Proof.Machine.execReadRaw addr s
  | .writeRaw addr data => Sys2Proof.Machine.execWriteRaw addr data s
  | .readReg reg => Sys2Proof.Machine.execReadReg reg s
  | .writeReg reg data => Sys2Proof.Machine.execWriteReg reg data s
  | .editReg reg => Sys2Proof.Machine.execEditReg reg s
  | .decode reg data => Sys2Proof.Machine.execDecode reg data s
  | .encode reg data => Sys2Proof.Machine.execEncode reg data s
  | .addressOf reg => Sys2Proof.Machine.execAddressOf reg s
  | .getField reg fld data => Sys2Proof.Machine.execGetField reg fld data s
  | .setField reg fld fval data => Sys2Proof.Machine.execSetField reg fld fval data s

end Sys2Proof.Machine
end

