-- ==== Sys2Proof/Machine/Sequencer.lean ====
section
/-! DEFINITION. The sequencer: one step out of each of the eight states of R26, as R140's table gives it. -/

namespace Sys2Proof.Machine

/-- IDLE: no word offered, nothing; a word that spells no command is rejected (R73, R155); a command is accepted. -/
def stepIdle (s : State) : StepResult :=
  match s.port with
  | [] => .next s
  | sub :: _ =>
    match decode sub.word with
    | .error r => .next (s.takeWord.raiseRejected r)
    | .ok i => exec i s

/-- RSEL: the read-side address select. -/
def stepRsel (s : State) : StepResult :=
  busWrite s s.a fun
    | .err e, t => .next (t.raiseTransport e)
    | .ok, t => .next { t with st := .rfetch }

/-- RFETCH: the fetch; READ_RAW ends here with the byte undecoded (R119). -/
def stepRfetch (s : State) : StepResult :=
  busRead s fun
    | .err e, t => .next (t.raiseTransport e)
    | .ok b, t =>
      if s.op = .readRaw then .next ({ t with d := b }.finish (.okay b))
      else if s.op = .readReg ∨ s.op = .editReg then .next { t with d := b, st := .dec }
      else .fault .noTransition

/-- DEC: decode `d` as type `rid`; READ_REG ends here. -/
def stepDec (s : State) : StepResult :=
  match s.catalog.decodeByte s.rid s.d with
  | none => .next s.raiseUnexpectedValue
  | some v =>
    if s.op = .readReg then .next ({ s with v := v }.finish (.okay v))
    else if s.op = .editReg then .next { s with v := v, st := .xf }
    else .fault .noTransition

/-- XF: the transform, applied once (R133); an answer outside `Value(rid)` ends the command (R134). -/
def stepXf (s : State) : StepResult :=
  let w := s.xf.apply s.v
  .next (if s.catalog.legal s.rid w then { s with v := w, st := .enc } else s.raiseRejected .xformIllegal)

/-- ENC: encode `v` into `d`. -/
def stepEnc (s : State) : StepResult := .next { s with d := s.catalog.encodeByte s.rid s.v, st := .wsel }

/-- WSEL: the write-side address select. -/
def stepWsel (s : State) : StepResult :=
  busWrite s s.a fun
    | .err e, t => .next (t.raiseTransport e)
    | .ok, t => .next { t with st := .wdata }

/-- WDATA: the data write; the command's result is 0 (D26). -/
def stepWdata (s : State) : StepResult :=
  busWrite s s.d fun
    | .err e, t => .next (t.raiseTransport e)
    | .ok, t => .next (t.finish (.okay 0))

/-- R140: the transition function. -/
def fsmStep (s : State) : StepResult :=
  match s.st with
  | .idle => stepIdle s
  | .rsel => stepRsel s
  | .rfetch => stepRfetch s
  | .dec => stepDec s
  | .xf => stepXf s
  | .enc => stepEnc s
  | .wsel => stepWsel s
  | .wdata => stepWdata s

end Sys2Proof.Machine
end

