-- ==== Sys2Proof/Machine/Step.lean ====
section
/-! DEFINITION. One step of the machine: one step of the sequencer (R140). -/

namespace Sys2Proof.Machine

/-- One step of the TRC. -/
def step (s : State) : Host.Outcome State Fault Refusal := fsmStep s

/-- The machine in IDLE with a word of the opcode table offered on the command port, ahead of the words already there:
commands come from the caller and are never fetched (R62; DESIGN CHOICE, log 9). An EDIT_REG word is bound to the identity transform. -/
def State.withFetchWord (s : State) (nbits w : Nat) : State :=
  State.offer { s with st := .idle } ⟨tableWord nbits w, Transform.identity⟩

end Sys2Proof.Machine
end

