-- ==== Sys2Proof/Machine/Assembly.lean ====
section
/-! DEFINITION. The assembler's lines (R77, R78, numbers as R10): from a line of text to the command it stands for and,
for EDIT_REG, the transform expression bound to it. A function expression `fn(v) => expr` is given as a term of
`XExpr`, not as text. -/

namespace Sys2Proof

/-- The words and punctuation marks of a line; `acc` holds the letters of the word being read, last first. -/
def tokensFrom : List Char → List Char → List String
  | [], [] => []
  | [], acc => [String.ofList acc.reverse]
  | c :: cs, acc =>
    if c.isAlphanum || c == '_' then tokensFrom cs (c :: acc)
    else
      let before := if acc.isEmpty then [] else [String.ofList acc.reverse]
      let mark := if c == ' ' then [] else [String.ofList [c]]
      before ++ mark ++ tokensFrom cs []

/-- The value of a digit in the given base. -/
def digitValue (base : Nat) (c : Char) : Option Nat :=
  let n :=
    if c.isDigit then c.toNat - '0'.toNat
    else if 'a' ≤ c && c ≤ 'f' then c.toNat - 'a'.toNat + 10
    else if 'A' ≤ c && c ≤ 'F' then c.toNat - 'A'.toNat + 10
    else base
  if n < base then some n else none

/-- The value of a list of digits after those whose value is `n`. R10 groups binary digits with `_`. DESIGN CHOICE
(log 18): a `_` stands between two binary digits, one at a time, and nowhere in a decimal or a hex number. -/
def digitsValue (base : Nat) : List Char → Nat → Option Nat
  | [], n => some n
  | '_' :: c :: cs, n =>
    if base = 2 then (digitValue base c).bind fun k => digitsValue base cs (n * base + k) else none
  | c :: cs, n => (digitValue base c).bind fun k => digitsValue base cs (n * base + k)

/-- R10: a number in decimal, `0x` hex or `0b` binary. DESIGN CHOICE (log 18): it has at least one digit, the first of
them ahead of any `_`. -/
def numberOf (s : String) : Option Nat :=
  match s.toList with
  | [] => none
  | ['0', 'x'] => none
  | ['0', 'b'] => none
  | '0' :: 'b' :: '_' :: _ => none
  | '0' :: 'x' :: cs => digitsValue 16 cs 0
  | '0' :: 'b' :: cs => digitsValue 2 cs 0
  | cs => digitsValue 10 cs 0

/-- A number that fits a field of `w` bits. -/
def fieldOf (w : Nat) (s : String) : Option (BitVec w) :=
  (numberOf s).bind fun n => if n < 2 ^ w then some (BitVec.ofNat w n) else none

/-- R77: a register type, by its mnemonic or as `#id`, and the tokens after it. -/
def regOperand : List String → Option (BitVec 5 × List String)
  | "#" :: n :: rest => (fieldOf 5 n).map (·, rest)
  | m :: rest => (regMap.toList.findIdx? (·.mnemonic == m)).map fun i => (BitVec.ofNat 5 i, rest)
  | [] => none

/-- R78: a transform expression. -/
def xexprOf : List String → Option XExpr
  | ["id"] => some .ident
  | ["set", "(", f, ",", x, ")"] => do return .set (← fieldOf 3 f) (← fieldOf 6 x)
  | ["flip", "(", f, ")"] => do return .flip (← fieldOf 3 f)
  | "id" :: ";" :: rest => do return .seq .ident (← xexprOf rest)
  | "set" :: "(" :: f :: "," :: x :: ")" :: ";" :: rest => do
    return .seq (.set (← fieldOf 3 f) (← fieldOf 6 x)) (← xexprOf rest)
  | "flip" :: "(" :: f :: ")" :: ";" :: rest => do return .seq (.flip (← fieldOf 3 f)) (← xexprOf rest)
  | _ => none

/-- The command a list of tokens stands for, with the transform expression of an EDIT_REG. -/
def commandOf : List String → Option (Instr × Option XExpr)
  | ["READ_RAW", a] => do return (.readRaw (← fieldOf 8 a), none)
  | ["WRITE_RAW", a, ",", b] => do return (.writeRaw (← fieldOf 8 a) (← fieldOf 8 b), none)
  | mnemonic :: rest => do
    match mnemonic, ← regOperand rest with
    | "READ_REG", (r, []) => return (.readReg r, none)
    | "WRITE_REG", (r, [",", b]) => return (.writeReg r (← fieldOf 8 b), none)
    | "EDIT_REG", (r, "," :: x) => return (.editReg r, some (← xexprOf x))
    | "DECODE", (r, [",", b]) => return (.decode r (← fieldOf 8 b), none)
    | "ENCODE", (r, [",", b]) => return (.encode r (← fieldOf 8 b), none)
    | "ADDRESS_OF", (r, []) => return (.addressOf r, none)
    | "GET_FIELD", (r, [".", f, ",", b]) => return (.getField r (← fieldOf 3 f) (← fieldOf 8 b), none)
    | "SET_FIELD", (r, [".", f, "=", x, ",", b]) =>
      return (.setField r (← fieldOf 3 f) (← fieldOf 6 x) (← fieldOf 8 b), none)
    | _, _ => none
  | [] => none

/-- R77: the command of one line. -/
def assemble (line : String) : Option (Instr × Option XExpr) := commandOf (tokensFrom line.toList [])

end Sys2Proof
end

