-- ==== Sys2Proof/Safety.lean ====
section
/-! DEFINITION. What claims about the machine are stated in: runs of several steps, the invariant of every state a run
from reset reaches, the latches a state can still read, and the transform expressions without a free function. -/

namespace Sys2Proof.Machine

/-- `k` steps, stopping at the first fault or refusal. -/
def runSteps : Nat → State → StepResult
  | 0, s => .next s
  | k + 1, s =>
    match step s with
    | .next t => runSteps k t
    | .fault f => .fault f
    | .refused r => .refused r

/-- What one more phase of the trace does to the select phase outstanding, `none` for a phase that does not fit there.
With none outstanding (`some none`) only a select may come: a write of one of the 18 addresses (R123), outstanding
once answered Ok. With address `a` selected (`some (some a)`) the data phase comes, a read or a write of one byte.
Every phase names the device 0x48 (R46). -/
def selectAfter : Option (Option Byte) → Phase → Option (Option Byte)
  | some none, .bw dev a .ok => if dev = Config.devAddr ∧ isRegAddress a = true then some (some a) else none
  | some none, .bw dev a (.err _) => if dev = Config.devAddr ∧ isRegAddress a = true then some none else none
  | some (some _), .bw dev _ _ => if dev = Config.devAddr then some none else none
  | some (some _), .br dev _ => if dev = Config.devAddr then some none else none
  | some none, .br _ _ => none
  | none, _ => none

/-- The address selected and not yet followed by its data phase at the end of a trace; `none` for a trace in which a
data phase has no successful select of its own just before it. -/
def outstandingSelect (trace : List Phase) : Option (Option Byte) := trace.foldl selectAfter (some none)

/-- The select of RSEL and RFETCH: a raw address, or the address of the typed command's register (R24). -/
def ReadSide (s : State) : Prop :=
  (s.op = .readRaw ∧ isRegAddress s.a = true) ∨
    ((s.op = .readReg ∨ s.op = .editReg ∧ regWritable s.rid = true) ∧ s.a = regAddress s.rid)

/-- The select of WSEL and WDATA, with the byte WDATA sends: raw as given, typed the encoding of a legal value of a
writable type (R120, R127, R128). -/
def WriteSide (s : State) : Prop :=
  (s.op = .writeRaw ∧ isRegAddress s.a = true) ∨
    ((s.op = .writeReg ∨ s.op = .editReg) ∧ regWritable s.rid = true ∧ s.a = regAddress s.rid ∧
      s.catalog.legal s.rid s.v = true ∧ s.d = s.catalog.encodeByte s.rid s.v)

/-- What the latches hold in each state of the sequencer (R39, R140). -/
def LatchesOk (s : State) : Prop :=
  match s.st with
  | .idle => True
  | .rsel => ReadSide s
  | .rfetch => ReadSide s
  | .dec => (s.op = .readReg ∨ s.op = .editReg ∧ regWritable s.rid = true) ∧ s.a = regAddress s.rid
  | .xf => s.op = .editReg ∧ regWritable s.rid = true ∧ s.a = regAddress s.rid ∧ s.catalog.legal s.rid s.v = true
  | .enc =>
    (s.op = .writeReg ∨ s.op = .editReg) ∧ regWritable s.rid = true ∧ s.a = regAddress s.rid ∧
      s.catalog.legal s.rid s.v = true
  | .wsel => WriteSide s
  | .wdata => WriteSide s

/-- The invariant. It rules out the states R140 gives no transition for. -/
structure Inv (s : State) : Prop where
  /-- R28: `resp_valid` is 0 while a command runs. -/
  busy : s.st ≠ .idle → s.respValid = false
  /-- R28: no field of `resp` is left from an earlier command. -/
  resp : s.resp.consistent = true
  latches : LatchesOk s
  /-- R117, R123: a select is outstanding exactly where the data phase is due, and it is that of `a`. -/
  bus : outstandingSelect s.trace = some (if s.st = .rfetch ∨ s.st = .wdata then some s.a else none)

/-- The latches that some later step of the running command may read are equal (R39). -/
def LiveLatches (s t : State) : Prop :=
  match s.st with
  | .idle => True
  | .rsel => s.op = t.op ∧ s.a = t.a ∧ (s.op ≠ .readRaw → s.rid = t.rid) ∧ (s.op = .editReg → s.xf = t.xf)
  | .rfetch => s.op = t.op ∧ s.a = t.a ∧ (s.op ≠ .readRaw → s.rid = t.rid) ∧ (s.op = .editReg → s.xf = t.xf)
  | .dec => s.op = t.op ∧ s.a = t.a ∧ s.rid = t.rid ∧ s.d = t.d ∧ (s.op = .editReg → s.xf = t.xf)
  | .xf => s.a = t.a ∧ s.rid = t.rid ∧ s.v = t.v ∧ s.xf = t.xf
  | .enc => s.a = t.a ∧ s.rid = t.rid ∧ s.v = t.v
  | .wsel => s.a = t.a ∧ s.d = t.d
  | .wdata => s.d = t.d

/-- The inputs and the bus history of two states are the same: the constants, both ports and the trace. -/
def SameOutside (s t : State) : Prop :=
  s.trace = t.trace ∧ s.catalog = t.catalog ∧ s.port = t.port ∧ s.writeAnswers = t.writeAnswers ∧
    s.readAnswers = t.readAnswers

/-- Two states that may differ only in latches no later step reads and in a response that is not valid (R38, R39). -/
structure LiveAgree (s t : State) : Prop where
  outside : SameOutside s t
  st : s.st = t.st
  response : s.readResponse = t.readResponse
  latches : LiveLatches s t

/-- An expression with no `fn(v) => …` in it. -/
def plainExpr : XExpr → Bool
  | .ident => true
  | .set _ _ => true
  | .flip _ => true
  | .seq t1 t2 => plainExpr t1 && plainExpr t2
  | .fn _ => false

end Sys2Proof.Machine
end

