-- ==== Sys2Proof/Certificates/Slice0/Obligations.lean ====
section
/-! DEFINITION. The statements for the provers: what the spec's numbered rules say the TRC does. Throughout,
`port := s.port.tail` is the word taken from the command port, whose later entries are the words the caller presents
next (log 3), and the answer lists are the transport's coming answers (log 4): the model's form of the spec's inputs. -/

open Sys2Proof Sys2Proof.Machine

/-! Encoding. -/

/-- Every command's word decodes to that command, with every operand value the fields hold (R66 to R72). -/
def Obligations.DecodeOfEncode : Prop := ∀ i : Instr, decode (encode i) = .ok i

/-- A word that spells a command is that command's encoding, so no two words spell one command (R72, R80). -/
def Obligations.EncodeOfDecode : Prop := ∀ (w : Word) (i : Instr), decode w = .ok i → encode i = w

/-- R72 with R66: a word spells a command exactly when it matches its MATCH under its MASK, and the operands are the
values of its fields; a word whose OP is one of the ten but which has a 1 in a must-be-zero bit is refused as
NONZERO_RSVD. -/
def Obligations.WordSpellsByPattern : Prop :=
  (∀ (w : Word) (a b : Byte) (r : BitVec 5) (f : BitVec 3) (x : BitVec 6),
    a.toNat = w.toNat / 2 ^ 16 % 2 ^ 8 → b.toNat = w.toNat / 2 ^ 24 % 2 ^ 8 → r.toNat = w.toNat / 2 ^ 4 % 2 ^ 5 →
    f.toNat = w.toNat / 2 ^ 9 % 2 ^ 3 → x.toNat = w.toNat / 2 ^ 16 % 2 ^ 6 →
    (decode w = .ok (.readRaw a) ↔ w &&& 0xFF00FFFF#32 = 0x00000001#32) ∧
    (decode w = .ok (.writeRaw a b) ↔ w &&& 0x0000FFFF#32 = 0x00000002#32) ∧
    (decode w = .ok (.readReg r) ↔ w &&& 0xFFFFFE0F#32 = 0x00000003#32) ∧
    (decode w = .ok (.writeReg r b) ↔ w &&& 0x00FFFE0F#32 = 0x00000004#32) ∧
    (decode w = .ok (.editReg r) ↔ w &&& 0xFFFFFE0F#32 = 0x00000005#32) ∧
    (decode w = .ok (.decode r b) ↔ w &&& 0x00FFFE0F#32 = 0x00000008#32) ∧
    (decode w = .ok (.encode r b) ↔ w &&& 0x00FFFE0F#32 = 0x00000009#32) ∧
    (decode w = .ok (.addressOf r) ↔ w &&& 0xFFFFFE0F#32 = 0x0000000A#32) ∧
    (decode w = .ok (.getField r f b) ↔ w &&& 0x00FFF00F#32 = 0x0000000B#32) ∧
    (decode w = .ok (.setField r f x b) ↔ w &&& 0x00C0F00F#32 = 0x0000000C#32)) ∧
  (∀ (w mask : Word) (op : Nat),
    (op, mask) ∈ [(0x1, 0xFF00FFFF#32), (0x2, 0x0000FFFF#32), (0x3, 0xFFFFFE0F#32), (0x4, 0x00FFFE0F#32),
      (0x5, 0xFFFFFE0F#32), (0x8, 0x00FFFE0F#32), (0x9, 0x00FFFE0F#32), (0xA, 0xFFFFFE0F#32), (0xB, 0x00FFF00F#32),
      (0xC, 0x00C0F00F#32)] →
    w.toNat % 16 = op → w &&& (mask - 0xF#32) ≠ 0 → decode w = .error .nonzeroRsvd)

/-- R73: a word spells no opcode of a command exactly when its OP is one of the six reserved values, whatever its other
bits; it is rejected as BAD_OPCODE, with no phase and no change but the response. -/
def Obligations.ReservedOpcodesRejected : Prop :=
  ∀ w : Word,
    (decode w = .error .badOpcode ↔ w.toNat % 16 ∈ [0x0, 0x6, 0x7, 0xD, 0xE, 0xF]) ∧
    ∀ (s : State) (f : Transform) (subs : List Submission), s.st = .idle → s.port = ⟨w, f⟩ :: subs →
      w.toNat % 16 ∈ [0x0, 0x6, 0x7, 0xD, 0xE, 0xF] →
      step s = .next { s with port := subs, resp := ⟨.rejected, some .badOpcode, 0, none⟩, respValid := true }

/-- R77's example lines: the command each stands for, and its word. -/
def Obligations.AssemblerExamples : Prop :=
  assemble "READ_RAW 0x02" = some (.readRaw 0x02, none) ∧ decode 0x00020001 = .ok (.readRaw 0x02) ∧
  assemble "WRITE_RAW 0x09, 0x55" = some (.writeRaw 0x09 0x55, none) ∧ decode 0x55090002 = .ok (.writeRaw 0x09 0x55) ∧
  assemble "READ_REG CHG_CONFIG0" = some (.readReg 1, none) ∧ decode 0x00000013 = .ok (.readReg 1) ∧
  assemble "WRITE_REG CHG_CONFIG0, 0x01" = some (.writeReg 1 0x01, none) ∧ decode 0x01000014 = .ok (.writeReg 1 0x01) ∧
  assemble "EDIT_REG CHG_CONFIG0, flip(0)" = some (.editReg 1, some (.flip 0)) ∧
    decode 0x00000015 = .ok (.editReg 1) ∧
  assemble "DECODE CHG_CONFIG0, 0x19" = some (.decode 1 0x19, none) ∧ decode 0x19000018 = .ok (.decode 1 0x19) ∧
  assemble "ENCODE CONTROL0, 0x93" = some (.encode 8 0x93, none) ∧ decode 0x93000089 = .ok (.encode 8 0x93) ∧
  assemble "ADDRESS_OF INT_MASK1" = some (.addressOf 16, none) ∧ decode 0x0000010A = .ok (.addressOf 16) ∧
  assemble "GET_FIELD CHG_CONFIG0.1, 0x05" = some (.getField 1 1 0x05, none) ∧
    decode 0x0500021B = .ok (.getField 1 1 0x05) ∧
  assemble "SET_FIELD CHG_CONFIG0.0 = 0, 0x01" = some (.setField 1 0 0 0x01, none) ∧
    decode 0x0100001C = .ok (.setField 1 0 0 0x01)

/-! The register map and the layouts. -/

/-- R30: the table of register types: id, mnemonic, source name, address, capability (R31). -/
def Obligations.RegisterTypeTable : Prop :=
  (List.finRange 18).map
      (fun r => (r.val, (regMap[r]).mnemonic, (regMap[r]).sourceName, (regAddress r).toNat, regWritable r)) =
    [(0, "CHG_STATUS", "charger-status", 0x01, false), (1, "CHG_CONFIG0", "charger-config-0", 0x02, true),
     (2, "CHG_CONFIG1", "charger-config-1", 0x03, true), (3, "CHG_CONFIG2", "charger-config-2", 0x04, true),
     (4, "CHG_CONFIG3", "charger-config-3", 0x05, true), (5, "CHG_STATE", "charger-state", 0x06, false),
     (6, "DCDC_SETTING", "dcdc-setting", 0x07, true), (7, "LDO_CONTROL", "ldo-control", 0x08, true),
     (8, "CONTROL0", "control-0", 0x09, true), (9, "CONTROL1", "control-1", 0x0A, true),
     (10, "GPIO_SSC", "gpio-ssc", 0x0B, true), (11, "GPIO_CONFIG_CONTROL", "gpio-config-control", 0x0C, true),
     (12, "INT_REPORT0", "interrupt-report-0", 0x10, false), (13, "INT_REPORT1", "interrupt-report-1", 0x11, false),
     (14, "INT_REPORT2", "interrupt-report-2", 0x12, false), (15, "INT_MASK0", "interrupt-mask-0", 0xD0, true),
     (16, "INT_MASK1", "interrupt-mask-1", 0xE0, true), (17, "INT_MASK2", "interrupt-mask-2", 0xF0, true)]

/-- R33, R47 to R49: the 18 addresses are distinct, and a byte is outside the closed set exactly in the ranges R48
lists. -/
def Obligations.AddressesDistinctAndClosed : Prop :=
  (∀ r q : RegId, regAddress r = regAddress q → r = q) ∧
  (∀ a : Byte, isRegAddress a = true ↔ ∃ r : RegId, regAddress r = a) ∧
  (∀ a : Byte, isRegAddress a = false ↔
    a.toNat = 0x00 ∨ (0x0D ≤ a.toNat ∧ a.toNat ≤ 0x0F) ∨ (0x13 ≤ a.toNat ∧ a.toNat ≤ 0xCF) ∨
    (0xD1 ≤ a.toNat ∧ a.toNat ≤ 0xDF) ∨ (0xE1 ≤ a.toNat ∧ a.toNat ≤ 0xEF) ∨ (0xF1 ≤ a.toNat ∧ a.toNat ≤ 0xFF))

/-- R86: the entries of every register's layout tile the byte: each starts where the one before ends, the first at bit
0, the last ends at bit 7; so the widths add up to 8 and every bit lies in exactly one entry. -/
def Obligations.EntriesTileTheByte : Prop :=
  ∀ (c : Catalog) (r : RegId),
    (∃ e, (c.spec r).layout.head? = some e ∧ e.off = 0) ∧
    (∀ (i : Nat) (e q : Entry), (c.spec r).layout[i]? = some e → (c.spec r).layout[i + 1]? = some q →
      q.off = e.off + e.width) ∧
    (∃ e, (c.spec r).layout.getLast? = some e ∧ e.off + e.width = 8) ∧
    ((c.spec r).layout.map (·.width)).sum = 8 ∧
    ∀ k : Nat, k < 8 →
      ∃ i, (∃ e, (c.spec r).layout[i]? = some e ∧ e.off ≤ k ∧ k < e.off + e.width) ∧
        ∀ (j : Nat) (e : Entry), (c.spec r).layout[j]? = some e → e.off ≤ k → k < e.off + e.width → j = i

/-- R91, R93: a byte is legal exactly when every ENUM entry's bits, read as a number, are one of its codes. -/
def Obligations.LegalIffEveryCodeLegal : Prop :=
  ∀ (c : Catalog) (r : RegId) (b : Byte),
    c.legal r b = true ↔
      ∀ e ∈ (c.spec r).layout, ∀ codes, e.kind = .enum codes → b.toNat / 2 ^ e.off % 2 ^ e.width ∈ codes

/-- R91, R92: a bit is in RSVMASK exactly when a RSV entry covers it. -/
def Obligations.ReservedMaskCoversRsvEntries : Prop :=
  ∀ (c : Catalog) (r : RegId) (k : Nat), k < 8 →
    ((c.rsvMask r).getLsbD k = true ↔
      ∃ e ∈ (c.spec r).layout, e.kind = .rsv ∧ e.off ≤ k ∧ k < e.off + e.width)

/-- R95, bit by bit: a bit outside RSVMASK is encoded as it is, one inside as the policy says. -/
def Obligations.EncodeForcesReservedBits : Prop :=
  ∀ (c : Catalog) (r : RegId) (v : Byte) (k : Nat), k < 8 →
    (c.encodeByte r v).getLsbD k =
      if (c.rsvMask r).getLsbD k = true ∧ (c.spec r).pol = .fixed then (c.spec r).fixv.getLsbD k else v.getLsbD k

/-- R106: Encode keeps legality. -/
def Obligations.EncodeKeepsLegality : Prop :=
  ∀ (c : Catalog) (r : RegId) (v : Byte), c.legal r v = true → c.legal r (c.encodeByte r v) = true

/-- R98: the round-trip law, for values and for bytes. -/
def Obligations.RoundTripLaw : Prop :=
  ∀ (c : Catalog) (r : RegId) (v : Byte), c.decodeByte r v = some v →
    c.decodeByte r (c.encodeByte r v) = some (c.encodeByte r v) ∧
    (c.decodeByte r (c.encodeByte r v) = some v ↔ (c.spec r).pol = .pass ∨ v &&& c.rsvMask r = (c.spec r).fixv) ∧
    ((c.spec r).pol = .pass → c.encodeByte r v = v) ∧
    ((c.spec r).pol = .fixed → c.encodeByte r v = (v &&& ~~~c.rsvMask r) ||| (c.spec r).fixv)

/-- R99, R107: whatever the other bits, a byte holding an illegal code does not decode, and DECODE answers
UNEXPECTED_VALUE. -/
def Obligations.RejectionLaw : Prop :=
  ∀ (s : State) (reg : BitVec 5) (r : RegId) (e : Entry) (codes : List Nat) (b : Byte),
    s.st = .idle → reg.toNat = r.val → e ∈ (s.catalog.spec r).layout → e.kind = .enum codes →
    b.toNat / 2 ^ e.off % 2 ^ e.width ∉ codes →
    s.catalog.decodeByte r b = none ∧
    exec (.decode reg b) s =
      .next { s with port := s.port.tail, resp := ⟨.unexpectedValue, none, 0, none⟩, respValid := true }

/-- R104's corner cases: setting a legal code gives a legal value whose entry holds that code, whose other entries are
unchanged, reserved ones included; setting the code already there changes nothing. -/
def Obligations.SetFieldReplacesOneEntry : Prop :=
  ∀ (c : Catalog) (r : RegId) (v : Byte) (i : Nat) (e : Entry) (x : BitVec 6),
    c.legal r v = true → (c.spec r).layout[i]? = some e → e.legalCode x.toNat = true →
    c.legal r (e.setField v (x.setWidth 8)) = true ∧
    (e.setField v (x.setWidth 8)).toNat / 2 ^ e.off % 2 ^ e.width = x.toNat ∧
    (∀ (j : Nat) (q : Entry), j ≠ i → (c.spec r).layout[j]? = some q →
      (e.setField v (x.setWidth 8)).toNat / 2 ^ q.off % 2 ^ q.width = v.toNat / 2 ^ q.off % 2 ^ q.width) ∧
    (v.toNat / 2 ^ e.off % 2 ^ e.width = x.toNat → e.setField v (x.setWidth 8) = v)

/-- R97: what every catalog says of CHG_CONFIG0. -/
def Obligations.ChargerConfig0Facts : Prop :=
  ∀ c : Catalog,
    (∃ e, (c.spec 1).layout[0]? = some e ∧ e.name = "charger_enabled" ∧ e.off = 0 ∧ e.width = 1 ∧ e.kind = .bool ∧
      e.settable = true) ∧
    (∃ e ∈ (c.spec 1).layout, e.width = 2 ∧ e.kind = .enum [0, 1, 2, 3]) ∧
    (∀ e ∈ (c.spec 1).layout, ∀ codes, e.kind = .enum codes → 0 ∈ codes) ∧
    c.legal 1 0x00 = true ∧ c.legal 1 0x01 = true ∧ c.encodeByte 1 0x01 = 0x01 ∧ c.encodeByte 1 0x00 = 0x00 ∧
    ((c.spec 1).pol = .fixed → (c.spec 1).fixv = 0)

/-! The catalog commands. -/

/-- R100: DECODE, whole: BAD_REG, the byte itself, or UNEXPECTED_VALUE; nothing else of the state changes but that the
word is taken. -/
def Obligations.DecodeCommandAnswers : Prop :=
  ∀ (s : State) (reg : BitVec 5) (b : Byte), s.st = .idle →
    (18 ≤ reg.toNat → exec (.decode reg b) s =
      .next { s with port := s.port.tail, resp := ⟨.rejected, some .badReg, 0, none⟩, respValid := true }) ∧
    (∀ r : RegId, reg.toNat = r.val → s.catalog.legal r b = true → exec (.decode reg b) s =
      .next { s with port := s.port.tail, resp := ⟨.ok, none, b, none⟩, respValid := true }) ∧
    (∀ r : RegId, reg.toNat = r.val → s.catalog.legal r b = false → exec (.decode reg b) s =
      .next { s with port := s.port.tail, resp := ⟨.unexpectedValue, none, 0, none⟩, respValid := true })

/-- R101: ENCODE, whole. -/
def Obligations.EncodeCommandAnswers : Prop :=
  ∀ (s : State) (reg : BitVec 5) (v : Byte), s.st = .idle →
    (18 ≤ reg.toNat → exec (.encode reg v) s =
      .next { s with port := s.port.tail, resp := ⟨.rejected, some .badReg, 0, none⟩, respValid := true }) ∧
    (∀ r : RegId, reg.toNat = r.val → s.catalog.legal r v = false → exec (.encode reg v) s =
      .next { s with port := s.port.tail, resp := ⟨.rejected, some .illegalValue, 0, none⟩, respValid := true }) ∧
    (∀ r : RegId, reg.toNat = r.val → s.catalog.legal r v = true → (s.catalog.spec r).pol = .pass →
      exec (.encode reg v) s =
        .next { s with port := s.port.tail, resp := ⟨.ok, none, v, none⟩, respValid := true }) ∧
    (∀ r : RegId, reg.toNat = r.val → s.catalog.legal r v = true → (s.catalog.spec r).pol = .fixed →
      exec (.encode reg v) s =
        .next { s with
          port := s.port.tail
          resp := ⟨.ok, none, (v &&& ~~~s.catalog.rsvMask r) ||| (s.catalog.spec r).fixv, none⟩
          respValid := true })

/-- R102: ADDRESS_OF answers the one address of the type, in every state. -/
def Obligations.AddressOfAnswers : Prop :=
  ∀ (s : State) (reg : BitVec 5), s.st = .idle →
    (18 ≤ reg.toNat → exec (.addressOf reg) s =
      .next { s with port := s.port.tail, resp := ⟨.rejected, some .badReg, 0, none⟩, respValid := true }) ∧
    (∀ n a : Nat,
      (n, a) ∈ [(0, 0x01), (1, 0x02), (2, 0x03), (3, 0x04), (4, 0x05), (5, 0x06), (6, 0x07), (7, 0x08), (8, 0x09),
        (9, 0x0A), (10, 0x0B), (11, 0x0C), (12, 0x10), (13, 0x11), (14, 0x12), (15, 0xD0), (16, 0xE0), (17, 0xF0)] →
      reg.toNat = n → exec (.addressOf reg) s =
        .next { s with port := s.port.tail, resp := ⟨.ok, none, BitVec.ofNat 8 a, none⟩, respValid := true })

/-- R103: GET_FIELD, whole, its checks in R154's order; the answer is the entry's bits as a number. -/
def Obligations.GetFieldAnswers : Prop :=
  ∀ (s : State) (reg : BitVec 5) (fld : BitVec 3) (v : Byte), s.st = .idle →
    (18 ≤ reg.toNat → exec (.getField reg fld v) s =
      .next { s with port := s.port.tail, resp := ⟨.rejected, some .badReg, 0, none⟩, respValid := true }) ∧
    (∀ r : RegId, reg.toNat = r.val →
      ((s.catalog.spec r).layout.length ≤ fld.toNat → exec (.getField reg fld v) s =
        .next { s with port := s.port.tail, resp := ⟨.rejected, some .badField, 0, none⟩, respValid := true }) ∧
      (∀ e : Entry, (s.catalog.spec r).layout[fld.toNat]? = some e →
        (e.kind = .rsv → exec (.getField reg fld v) s =
          .next { s with port := s.port.tail, resp := ⟨.rejected, some .badField, 0, none⟩, respValid := true }) ∧
        (e.kind ≠ .rsv → s.catalog.legal r v = false → exec (.getField reg fld v) s =
          .next { s with port := s.port.tail, resp := ⟨.rejected, some .illegalValue, 0, none⟩, respValid := true }) ∧
        (e.kind ≠ .rsv → s.catalog.legal r v = true → exec (.getField reg fld v) s =
          .next { s with
            port := s.port.tail
            resp := ⟨.ok, none, BitVec.ofNat 8 (v.toNat / 2 ^ e.off % 2 ^ e.width), none⟩
            respValid := true })))

/-- R104, R153, R154: SET_FIELD, whole: the first failing check in order, else the value with the entry's bits
replaced. -/
def Obligations.SetFieldAnswers : Prop :=
  ∀ (s : State) (reg : BitVec 5) (fld : BitVec 3) (x : BitVec 6) (v : Byte), s.st = .idle →
    (18 ≤ reg.toNat → exec (.setField reg fld x v) s =
      .next { s with port := s.port.tail, resp := ⟨.rejected, some .badReg, 0, none⟩, respValid := true }) ∧
    (∀ r : RegId, reg.toNat = r.val →
      (regWritable r = false → exec (.setField reg fld x v) s =
        .next { s with port := s.port.tail, resp := ⟨.rejected, some .readOnly, 0, none⟩, respValid := true }) ∧
      (regWritable r = true → (s.catalog.spec r).layout.length ≤ fld.toNat → exec (.setField reg fld x v) s =
        .next { s with port := s.port.tail, resp := ⟨.rejected, some .badField, 0, none⟩, respValid := true }) ∧
      (∀ e : Entry, regWritable r = true → (s.catalog.spec r).layout[fld.toNat]? = some e →
        (e.kind = .rsv → exec (.setField reg fld x v) s =
          .next { s with port := s.port.tail, resp := ⟨.rejected, some .badField, 0, none⟩, respValid := true }) ∧
        (e.kind ≠ .rsv → e.settable = false → exec (.setField reg fld x v) s =
          .next { s with
            port := s.port.tail, resp := ⟨.rejected, some .fieldNotSettable, 0, none⟩, respValid := true }) ∧
        (e.settable = true → s.catalog.legal r v = false → exec (.setField reg fld x v) s =
          .next { s with port := s.port.tail, resp := ⟨.rejected, some .illegalValue, 0, none⟩, respValid := true }) ∧
        (e.settable = true → s.catalog.legal r v = true → e.kind = .bool → 1 < x.toNat →
          exec (.setField reg fld x v) s =
            .next { s with
              port := s.port.tail, resp := ⟨.rejected, some .illegalFieldValue, 0, none⟩, respValid := true }) ∧
        (∀ codes, e.settable = true → s.catalog.legal r v = true → e.kind = .enum codes → x.toNat ∉ codes →
          exec (.setField reg fld x v) s =
            .next { s with
              port := s.port.tail, resp := ⟨.rejected, some .illegalFieldValue, 0, none⟩, respValid := true }) ∧
        (e.settable = true → s.catalog.legal r v = true →
          (e.kind = .bool ∧ x.toNat ≤ 1 ∨ ∃ codes, e.kind = .enum codes ∧ x.toNat ∈ codes) →
          exec (.setField reg fld x v) s =
            .next { s with
              port := s.port.tail
              resp := ⟨.ok, none, (v &&& ~~~e.fmask) ||| (x.setWidth 8 <<< e.off), none⟩
              respValid := true })))

/-- R105: a catalog command, accepted or rejected, writes the response and nothing else; `st` stays IDLE and the trace
is unchanged; and the response depends on the word's fields and the catalog constants alone. -/
def Obligations.CatalogCommandsArePure : Prop :=
  ∀ (c : Catalog) (reg : BitVec 5) (fld : BitVec 3) (x : BitVec 6) (b : Byte) (i : Instr),
    i ∈ [.decode reg b, .encode reg b, .addressOf reg, .getField reg fld b, .setField reg fld x b] →
    ∃ r : Resp, r.consistent = true ∧ ∀ s : State, s.st = .idle → s.catalog = c →
      exec i s = .next { s with port := s.port.tail, resp := r, respValid := true }

/-! The raw commands. -/

/-- R116, R119, R121: READ_RAW of any of the 18 addresses: accepted, whatever the transport will answer; and with both
phases answered Ok, select and fetch, then the byte as read. -/
def Obligations.ReadRawReturnsTheByte : Prop :=
  ∀ (s : State) (a : Byte), s.st = .idle → isRegAddress a = true →
    exec (.readRaw a) s =
      .next { s with st := .rsel, op := 1, a := a, respValid := false, port := s.port.tail } ∧
    ∀ (b : Byte) (ws : List WriteAnswer) (rs : List ReadAnswer), s.writeAnswers = .ok :: ws →
      s.readAnswers = .ok b :: rs →
    runSteps 2 { s with st := .rsel, op := 1, a := a, respValid := false, port := s.port.tail } =
      .next { s with
        op := 1, a := a, d := b, resp := ⟨.ok, none, b, none⟩, respValid := true, port := s.port.tail
        writeAnswers := ws, readAnswers := rs
        trace := s.trace ++ [.bw 0x48 a .ok, .br 0x48 (.ok b)] }

/-- R48: a raw command whose ADDR is outside the closed set is rejected BAD_ADDR before any phase. -/
def Obligations.RawCommandsRefuseOtherAddresses : Prop :=
  ∀ (s : State) (a b : Byte), s.st = .idle → isRegAddress a = false →
    exec (.readRaw a) s =
      .next { s with port := s.port.tail, resp := ⟨.rejected, some .badAddr, 0, none⟩, respValid := true } ∧
    exec (.writeRaw a b) s =
      .next { s with port := s.port.tail, resp := ⟨.rejected, some .badAddr, 0, none⟩, respValid := true }

/-- R120, R121: WRITE_RAW of any of the 18 addresses: accepted, whatever the transport will answer; and with both phases
answered Ok, select and the byte exactly as given. -/
def Obligations.WriteRawSendsTheByte : Prop :=
  ∀ (s : State) (a b : Byte), s.st = .idle → isRegAddress a = true →
    exec (.writeRaw a b) s =
      .next { s with st := .wsel, op := 2, a := a, d := b, respValid := false, port := s.port.tail } ∧
    ∀ ws : List WriteAnswer, s.writeAnswers = .ok :: .ok :: ws →
    runSteps 2 { s with st := .wsel, op := 2, a := a, d := b, respValid := false, port := s.port.tail } =
      .next { s with
        op := 2, a := a, d := b, resp := ⟨.ok, none, 0, none⟩, respValid := true, port := s.port.tail
        writeAnswers := ws
        trace := s.trace ++ [.bw 0x48 a .ok, .bw 0x48 b .ok] }

/-- R117, R151: whichever command runs, a phase answered `Err(e)` ends it at once with TRANSPORT and that e, data 0 and
no further phase: a failed select has no data phase. -/
def Obligations.FailedPhaseEndsTheCommand : Prop :=
  ∀ (s : State) (e : BusError),
    (∀ ws, s.st = .rsel ∨ s.st = .wsel → s.writeAnswers = .err e :: ws → step s = .next { s with
      st := .idle, resp := ⟨.transport, none, 0, some e⟩, respValid := true, writeAnswers := ws
      trace := s.trace ++ [.bw 0x48 s.a (.err e)] }) ∧
    (∀ ws, s.st = .wdata → s.writeAnswers = .err e :: ws → step s = .next { s with
      st := .idle, resp := ⟨.transport, none, 0, some e⟩, respValid := true, writeAnswers := ws
      trace := s.trace ++ [.bw 0x48 s.d (.err e)] }) ∧
    (∀ rs, s.st = .rfetch → s.readAnswers = .err e :: rs → step s = .next { s with
      st := .idle, resp := ⟨.transport, none, 0, some e⟩, respValid := true, readAnswers := rs
      trace := s.trace ++ [.br 0x48 (.err e)] })

/-! The typed commands. -/

/-- R125: READ_REG of no type, BAD_REG. Of any type, read-only or writable: accepted, whatever the transport will answer;
and with both phases answered Ok, select and fetch, then the byte decoded: the value image with its reserved bits, or
UNEXPECTED_VALUE without the byte. -/
def Obligations.ReadRegDecodesTheByte : Prop :=
  (∀ (s : State) (reg : BitVec 5), s.st = .idle → 18 ≤ reg.toNat → exec (.readReg reg) s =
    .next { s with port := s.port.tail, resp := ⟨.rejected, some .badReg, 0, none⟩, respValid := true }) ∧
  ∀ (s : State) (reg : BitVec 5) (r : RegId), s.st = .idle → reg.toNat = r.val →
    exec (.readReg reg) s =
      .next { s with
        st := .rsel, op := 3, rid := r, a := regAddress r, respValid := false, port := s.port.tail } ∧
    ∀ (b : Byte) (ws : List WriteAnswer) (rs : List ReadAnswer), s.writeAnswers = .ok :: ws →
      s.readAnswers = .ok b :: rs →
    (s.catalog.legal r b = true →
      runSteps 3 { s with
        st := .rsel, op := 3, rid := r, a := regAddress r, respValid := false, port := s.port.tail } =
      .next { s with
        op := 3, rid := r, a := regAddress r, d := b, v := b, resp := ⟨.ok, none, b, none⟩, respValid := true
        port := s.port.tail, writeAnswers := ws, readAnswers := rs
        trace := s.trace ++ [.bw 0x48 (regAddress r) .ok, .br 0x48 (.ok b)] }) ∧
    (s.catalog.legal r b = false →
      runSteps 3 { s with
        st := .rsel, op := 3, rid := r, a := regAddress r, respValid := false, port := s.port.tail } =
      .next { s with
        op := 3, rid := r, a := regAddress r, d := b, resp := ⟨.unexpectedValue, none, 0, none⟩, respValid := true
        port := s.port.tail, writeAnswers := ws, readAnswers := rs
        trace := s.trace ++ [.bw 0x48 (regAddress r) .ok, .br 0x48 (.ok b)] })

/-- R127: WRITE_REG of a legal value to a writable type: accepted, whatever the transport will answer; and with both
phases answered Ok, encoded, then select and the encoded byte. -/
def Obligations.WriteRegSendsTheEncoding : Prop :=
  ∀ (s : State) (reg : BitVec 5) (r : RegId) (v : Byte), s.st = .idle → reg.toNat = r.val →
    regWritable r = true → s.catalog.legal r v = true →
    exec (.writeReg reg v) s =
      .next { s with
        st := .enc, op := 4, rid := r, a := regAddress r, v := v, respValid := false, port := s.port.tail } ∧
    ∀ ws : List WriteAnswer, s.writeAnswers = .ok :: .ok :: ws →
    runSteps 3 { s with
        st := .enc, op := 4, rid := r, a := regAddress r, v := v, respValid := false, port := s.port.tail } =
      .next { s with
        op := 4, rid := r, a := regAddress r, v := v, d := s.catalog.encodeByte r v
        resp := ⟨.ok, none, 0, none⟩, respValid := true, port := s.port.tail, writeAnswers := ws
        trace := s.trace ++ [.bw 0x48 (regAddress r) .ok, .bw 0x48 (s.catalog.encodeByte r v) .ok] }

/-- R127, R128, R154: WRITE_REG and EDIT_REG refused at accept: BAD_REG, READ_ONLY, and for WRITE_REG ILLEGAL_VALUE, in
that order, with no phase, no latch written. -/
def Obligations.TypedWritesRefusedBeforeTheBus : Prop :=
  ∀ (s : State) (reg : BitVec 5) (v : Byte), s.st = .idle →
    (18 ≤ reg.toNat →
      exec (.writeReg reg v) s =
        .next { s with port := s.port.tail, resp := ⟨.rejected, some .badReg, 0, none⟩, respValid := true } ∧
      exec (.editReg reg) s =
        .next { s with port := s.port.tail, resp := ⟨.rejected, some .badReg, 0, none⟩, respValid := true }) ∧
    (∀ r : RegId, reg.toNat = r.val → regWritable r = false →
      exec (.writeReg reg v) s =
        .next { s with port := s.port.tail, resp := ⟨.rejected, some .readOnly, 0, none⟩, respValid := true } ∧
      exec (.editReg reg) s =
        .next { s with port := s.port.tail, resp := ⟨.rejected, some .readOnly, 0, none⟩, respValid := true }) ∧
    (∀ r : RegId, reg.toNat = r.val → regWritable r = true → s.catalog.legal r v = false →
      exec (.writeReg reg v) s =
        .next { s with port := s.port.tail, resp := ⟨.rejected, some .illegalValue, 0, none⟩, respValid := true })

/-- R129, R130, R132, R133: EDIT_REG of a writable type: accepted with the transform bound to its word, whatever the
transport will answer; and to OK: four phases, the last the encoding of the transform's answer for the byte this command
fetched, whatever that answer is (the write is never skipped). -/
def Obligations.EditRegWritesTheTransformedByte : Prop :=
  ∀ (s : State) (reg : BitVec 5) (r : RegId) (w : Word) (f : Transform) (subs : List Submission), s.st = .idle →
    s.port = ⟨w, f⟩ :: subs → reg.toNat = r.val → regWritable r = true →
    exec (.editReg reg) s =
      .next { s with
        st := .rsel, op := 5, rid := r, a := regAddress r, xf := f, respValid := false, port := subs } ∧
    ∀ (b : Byte) (ws : List WriteAnswer) (rs : List ReadAnswer), s.writeAnswers = .ok :: .ok :: .ok :: ws →
      s.readAnswers = .ok b :: rs → s.catalog.legal r b = true → s.catalog.legal r (f.apply b) = true →
      runSteps 7 { s with
        st := .rsel, op := 5, rid := r, a := regAddress r, xf := f, respValid := false, port := subs } =
      .next { s with
        op := 5, rid := r, a := regAddress r, xf := f, v := f.apply b, d := s.catalog.encodeByte r (f.apply b)
        resp := ⟨.ok, none, 0, none⟩, respValid := true, port := subs, writeAnswers := ws, readAnswers := rs
        trace := s.trace ++ [.bw 0x48 (regAddress r) .ok, .br 0x48 (.ok b), .bw 0x48 (regAddress r) .ok,
          .bw 0x48 (s.catalog.encodeByte r (f.apply b)) .ok] }

/-- R129, R131, R134: EDIT_REG whose fetched byte is illegal (UNEXPECTED_VALUE) or whose transform answers an illegal
byte (XFORM_ILLEGAL): the two read phases stay in the trace and no write is made. -/
def Obligations.EditRegAbortsBeforeTheWrite : Prop :=
  ∀ (s : State) (b : Byte) (ws : List WriteAnswer) (rs : List ReadAnswer), s.st = .rsel → s.op = 5 →
    s.writeAnswers = .ok :: ws → s.readAnswers = .ok b :: rs →
    (s.catalog.legal s.rid b = false → runSteps 3 s =
      .next { s with
        st := .idle, d := b, resp := ⟨.unexpectedValue, none, 0, none⟩, respValid := true
        writeAnswers := ws, readAnswers := rs, trace := s.trace ++ [.bw 0x48 s.a .ok, .br 0x48 (.ok b)] }) ∧
    (s.catalog.legal s.rid b = true → s.catalog.legal s.rid (s.xf.apply b) = false → runSteps 4 s =
      .next { s with
        st := .idle, d := b, v := b, resp := ⟨.rejected, some .xformIllegal, 0, none⟩, respValid := true
        writeAnswers := ws, readAnswers := rs, trace := s.trace ++ [.bw 0x48 s.a .ok, .br 0x48 (.ok b)] })

/-- The source's edit scenario, for every layout R97 allows: CHG_CONFIG0 holds 0x01, `flip(0)` is applied, 0x00 is
written, and there is no other phase. -/
def Obligations.EditScenarioFlipsChargerEnabled : Prop :=
  ∀ (s : State) (f : Transform) (subs : List Submission) (ws : List WriteAnswer) (rs : List ReadAnswer), s.st = .idle →
    denote s.catalog 1 (.flip 0) = some f → s.port = ⟨0x00000015, f⟩ :: subs →
    s.writeAnswers = .ok :: .ok :: .ok :: ws → s.readAnswers = .ok 0x01 :: rs →
    ∃ t, runSteps 8 s = .next t ∧ t.st = .idle ∧ t.respValid = true ∧ t.resp = ⟨.ok, none, 0, none⟩ ∧ t.port = subs ∧
      t.trace = s.trace ++ [.bw 0x48 0x02 .ok, .br 0x48 (.ok 0x01), .bw 0x48 0x02 .ok, .bw 0x48 0x00 .ok]

/-- R78: which expressions are well-formed, and what they denote on values of the type. `id` and a function always are;
`set(f, x)` exactly where SET_FIELD with these operands and a value of the type is not rejected, which is for a settable
entry of a writable type and a legal code of it; `flip(f)` exactly for a settable BOOL entry of a writable type. That
`t1 ; t2` is well-formed exactly when both are and `t1` answers values of the type is the model's reading (DEDUCED,
log 8). `flip(0)` is well-formed for CHG_CONFIG0 in every layout. -/
def Obligations.TransformExpressionsDenote : Prop :=
  ∀ (c : Catalog) (r : RegId),
    (∃ f, denote c r .ident = some f ∧ ∀ v, f.apply v = v) ∧
    (∀ f : Transform, denote c r (.fn f) = some f) ∧
    (∀ (i : BitVec 3) (x : BitVec 6),
      ((∃ f, denote c r (.set i x) = some f) ↔
        regWritable r = true ∧ ∃ e, (c.spec r).layout[i.toNat]? = some e ∧ e.settable = true ∧
          (e.kind = .bool ∧ x.toNat ≤ 1 ∨ ∃ codes, e.kind = .enum codes ∧ x.toNat ∈ codes)) ∧
      (∀ (s : State) (reg : BitVec 5) (v : Byte), s.st = .idle → s.catalog = c → reg.toNat = r.val →
        c.legal r v = true →
        ((∃ f, denote c r (.set i x) = some f) ↔
          ∃ t, exec (.setField reg i x v) s = .next t ∧ t.resp.status ≠ .rejected)) ∧
      ∀ (f : Transform) (v : Byte), denote c r (.set i x) = some f →
        ∃ e, (c.spec r).layout[i.toNat]? = some e ∧ f.apply v = (v &&& ~~~e.fmask) ||| (x.setWidth 8 <<< e.off)) ∧
    (∀ i : BitVec 3,
      ((∃ f, denote c r (.flip i) = some f) ↔
        regWritable r = true ∧ ∃ e, (c.spec r).layout[i.toNat]? = some e ∧ e.settable = true ∧ e.kind = .bool) ∧
      ∀ (f : Transform) (v : Byte), denote c r (.flip i) = some f →
        ∃ e, (c.spec r).layout[i.toNat]? = some e ∧ f.apply v = v ^^^ e.fmask) ∧
    (∀ t1 t2 : XExpr,
      ((∃ h, denote c r (.seq t1 t2) = some h) ↔
        ∃ f g, denote c r t1 = some f ∧ denote c r t2 = some g ∧
          ∀ v, c.legal r v = true → c.legal r (f.apply v) = true) ∧
      ∀ (h : Transform) (v : Byte), denote c r (.seq t1 t2) = some h →
        ∃ f g, denote c r t1 = some f ∧ denote c r t2 = some g ∧ h.apply v = g.apply (f.apply v)) ∧
    (∃ f, denote c 1 (.flip 0) = some f)

/-- R134: an expression built from `id`, `set`, `flip` and `;` answers legal values for legal values, so an EDIT_REG in
XF with it goes on to the write and never ends with XFORM_ILLEGAL. -/
def Obligations.PlainTransformsNeverIllegal : Prop :=
  ∀ (s : State) (x : XExpr), plainExpr x = true → denote s.catalog s.rid x = some s.xf → s.st = .xf →
    s.catalog.legal s.rid s.v = true →
    step s = .next { s with st := .enc, v := s.xf.apply s.v } ∧ s.catalog.legal s.rid (s.xf.apply s.v) = true

/-! The machine as a whole. -/

/-- R38, R175, R176: the state after reset, where the spec gives a value: IDLE and ready, no valid response, nothing in
the trace, the catalog at its build-time constants. -/
def Obligations.ResetStateAsGiven : Prop :=
  State.reset.st = .idle ∧ State.reset.cmdReady = true ∧ State.reset.respValid = false ∧ State.reset.trace = [] ∧
    State.reset.catalog = Config.catalog

/-- A step in IDLE with a word offered that spells a command is that command's meaning (R140, R141). The second clause,
that `withFetchWord` offers exactly such a word, is no rule of the spec but the model's choice (DESIGN CHOICE, log 9). -/
def Obligations.StepRunsTheCommandOffered : Prop :=
  (∀ (s : State) (w : Word) (f : Transform) (subs : List Submission) (i : Instr), s.st = .idle →
    s.port = ⟨w, f⟩ :: subs → decode w = .ok i → step s = exec i s) ∧
  (∀ (s : State) (w : Nat) (i : Instr), decodeTableWord 32 w = some i →
    step (s.withFetchWord 32 w) = exec i (s.withFetchWord 32 w))

/-- R140, R155: in IDLE with no word offered nothing happens; a word that spells no command is answered REJECTED with the
reason, and nothing else changes but that the word is taken. -/
def Obligations.IdleWithoutACommand : Prop :=
  (∀ s : State, s.st = .idle → s.port = [] → step s = .next s) ∧
  (∀ (s : State) (w : Word) (f : Transform) (subs : List Submission) (r : Reason), s.st = .idle →
    s.port = ⟨w, f⟩ :: subs → decode w = .error r →
    step s = .next { s with port := subs, resp := ⟨.rejected, some r, 0, none⟩, respValid := true })

/-- R155: a rejection at accept, of whatever word for whatever reason, writes the response and changes nothing else: no
phase, no latch, `st` stays IDLE, and the word is taken. -/
def Obligations.RejectionTouchesOnlyTheResponse : Prop :=
  ∀ s t : State, s.st = .idle → s.port ≠ [] → step s = .next t → t.respValid = true → t.resp.status = .rejected →
    ∃ r, t = { s with port := s.port.tail, resp := ⟨.rejected, some r, 0, none⟩, respValid := true }

/-- R27, R182: while a command runs no word is taken: `exec` leaves everything as it is, and a step leaves the port as
it is. `cmd_ready` is 1 exactly in IDLE. -/
def Obligations.NoWordTakenWhileBusy : Prop :=
  ∀ s : State, (s.cmdReady = true ↔ s.st = .idle) ∧
    (s.st ≠ .idle → (∀ i : Instr, exec i s = .next s) ∧ ∀ t, step s = .next t → t.port = s.port)

/-- R140: the rows of the transition table out of the seven busy states, for a phase answered Ok (the Err rows are
`FailedPhaseEndsTheCommand`). -/
def Obligations.SequencerFollowsTheTable : Prop :=
  ∀ s : State,
    (∀ ws, s.writeAnswers = .ok :: ws →
      (s.st = .rsel → step s = .next { s with
        st := .rfetch, writeAnswers := ws, trace := s.trace ++ [.bw 0x48 s.a .ok] }) ∧
      (s.st = .wsel → step s = .next { s with
        st := .wdata, writeAnswers := ws, trace := s.trace ++ [.bw 0x48 s.a .ok] }) ∧
      (s.st = .wdata → step s = .next { s with
        st := .idle, resp := ⟨.ok, none, 0, none⟩, respValid := true, writeAnswers := ws
        trace := s.trace ++ [.bw 0x48 s.d .ok] })) ∧
    (s.st = .rfetch → ∀ b rs, s.readAnswers = .ok b :: rs →
      (s.op = 1 → step s = .next { s with
        st := .idle, d := b, resp := ⟨.ok, none, b, none⟩, respValid := true, readAnswers := rs
        trace := s.trace ++ [.br 0x48 (.ok b)] }) ∧
      (s.op = 3 ∨ s.op = 5 → step s = .next { s with
        st := .dec, d := b, readAnswers := rs, trace := s.trace ++ [.br 0x48 (.ok b)] })) ∧
    (s.st = .dec →
      (s.catalog.legal s.rid s.d = false → step s = .next { s with
        st := .idle, resp := ⟨.unexpectedValue, none, 0, none⟩, respValid := true }) ∧
      (s.catalog.legal s.rid s.d = true → s.op = 3 → step s = .next { s with
        st := .idle, v := s.d, resp := ⟨.ok, none, s.d, none⟩, respValid := true }) ∧
      (s.catalog.legal s.rid s.d = true → s.op = 5 → step s = .next { s with st := .xf, v := s.d })) ∧
    (s.st = .xf →
      (s.catalog.legal s.rid (s.xf.apply s.v) = false → step s = .next { s with
        st := .idle, resp := ⟨.rejected, some .xformIllegal, 0, none⟩, respValid := true }) ∧
      (s.catalog.legal s.rid (s.xf.apply s.v) = true → step s = .next { s with st := .enc, v := s.xf.apply s.v })) ∧
    (s.st = .enc → step s = .next { s with st := .wsel, d := s.catalog.encodeByte s.rid s.v })

/-- R113: a phase the transport does not answer leaves the machine where it is, busy; there is no timeout. That a step
then answers the same state, where the spec has no step, is the model's choice (log 7). -/
def Obligations.UnansweredPhaseWaits : Prop :=
  ∀ (s : State) (k : Nat),
    (s.st = .rsel ∨ s.st = .wsel ∨ s.st = .wdata → s.writeAnswers = [] → runSteps k s = .next s) ∧
    (s.st = .rfetch → s.readAnswers = [] → runSteps k s = .next s)

/-- R11, R29, R46, R57, R115: a step issues at most one bus phase, appends it to the trace, names 0x48, and does so only
out of a bus state. -/
def Obligations.AtMostOnePhaseAStep : Prop :=
  ∀ s t : State, step s = .next t →
    t.trace = s.trace ∨
      (s.st = .rfetch ∧ ∃ r, t.trace = s.trace ++ [.br 0x48 r]) ∨
      ((s.st = .rsel ∨ s.st = .wsel) ∧ ∃ r, t.trace = s.trace ++ [.bw 0x48 s.a r]) ∨
      (s.st = .wdata ∧ ∃ r, t.trace = s.trace ++ [.bw 0x48 s.d r])

/-- R32: no command and no step writes the catalog constants. -/
def Obligations.CatalogConstantsNeverWritten : Prop :=
  (∀ (i : Instr) (s t : State), exec i s = .next t → t.catalog = s.catalog) ∧
  (∀ s t : State, step s = .next t → t.catalog = s.catalog)

/-- R76: the packed response word, bits 31..16 zero, data, reason, status; R28 and R153 number the codes. -/
def Obligations.ResponseWordPacks : Prop :=
  (∀ r : Resp, r.pack.toNat = r.data.toNat * 2 ^ 8 + r.reasonBits.toNat * 2 ^ 4 + r.status.code.toNat) ∧
  [Status.ok, .transport, .unexpectedValue, .rejected].map (fun x => x.code.toNat) = [0, 1, 2, 3] ∧
  [Reason.badOpcode, .nonzeroRsvd, .badReg, .badAddr, .readOnly, .badField, .fieldNotSettable, .illegalValue,
    .illegalFieldValue, .xformIllegal].map (fun x => (reasonCode x).toNat) = [1, 2, 3, 4, 5, 6, 7, 8, 9, 10] ∧
  (∀ (st : Status) (x : Byte) (e : Option BusError), Resp.reasonBits ⟨st, none, x, e⟩ = 0)

/-- R31, R74, R128: a command is ill-formed exactly when its accepting step answers BAD_REG, BAD_ADDR or READ_ONLY and
touches nothing but the response. -/
def Obligations.IllFormedCommandsRefused : Prop :=
  ∀ (s : State) (i : Instr), s.st = .idle →
    (i.wellFormed = false ↔
      ∃ r ∈ [Reason.badReg, .badAddr, .readOnly],
        exec i s = .next { s with port := s.port.tail, resp := ⟨.rejected, some r, 0, none⟩, respValid := true })

/-- The invariant holds at reset. R38 gives `st`, `resp_valid` and `trace` there. That `resp` is then consistent, which
`Inv` asks even while it is not valid, rests on the model's choice of the unspecified `resp` (DESIGN CHOICE, log 1). -/
def Obligations.InvariantAtReset : Prop := Inv State.reset

/-- The invariant is kept by every step: the response is consistent and not valid while busy, the latches hold what each
state needs (typed writes only to writable types, the byte sent the encoding of a legal value), and every data phase in
the trace follows its own successful select at 0x48 of one of the 18 addresses. -/
def Obligations.InvariantKept : Prop := ∀ s t : State, Inv s → step s = .next t → Inv t

/-- From a state that meets the invariant a step never faults and is never refused, whatever the word offered and
whatever the transport answers. Where a phase is pending and no answer is left, the spec has no step (R113, R140): that
the model answers a next state there too, the same state, is its choice (DESIGN CHOICE, log 7). -/
def Obligations.NoStopUnderInvariant : Prop := ∀ s : State, Inv s → ∃ t, step s = .next t

/-- R143, R150: a running command, given answers to its phases, is back in IDLE within seven steps with its one response
valid, and has taken no further word. -/
def Obligations.EveryCommandReturnsToIdle : Prop :=
  ∀ s : State, Inv s → s.st ≠ .idle → 3 ≤ s.writeAnswers.length → 1 ≤ s.readAnswers.length →
    ∃ k t, k ≤ 7 ∧ runSteps k s = .next t ∧ t.st = .idle ∧ t.respValid = true ∧ t.resp.consistent = true ∧
      t.port = s.port

/-- R39: two states that differ only in latches no later step reads, and in a response that is not valid, step to two
such states: stale and unspecified contents are never observed. -/
def Obligations.StaleLatchesNeverObserved : Prop :=
  ∀ s t : State, LiveAgree s t →
    match step s, step t with
    | .next s', .next t' => LiveAgree s' t'
    | .fault f, .fault g => f = g
    | .refused f, .refused g => f = g
    | _, _ => False

/-- R143, R159: the next command runs the same whatever the last one answered and left in the latches: two IDLE states
with the same inputs and bus history, a word offered, agree after the accepting step. -/
def Obligations.NoErrorPoisonsTheNextCommand : Prop :=
  ∀ s t : State, s.st = .idle → t.st = .idle → SameOutside s t → s.port ≠ [] →
    ∃ s' t', step s = .next s' ∧ step t = .next t' ∧ LiveAgree s' t'
end

