-- ==== Sys2Proof/Laws/Flags.lean ====
section
/-! SUPPORT. The four kinds of response, field by field, and that each is consistent (R28). -/

namespace Sys2Proof.Machine

@[simp] theorem Resp.okay_status (x : Byte) : (Resp.okay x).status = .ok := rfl
@[simp] theorem Resp.okay_data (x : Byte) : (Resp.okay x).data = x := rfl
@[simp] theorem Resp.transportError_status (e : BusError) : (Resp.transportError e).status = .transport := rfl
@[simp] theorem Resp.transportError_terr (e : BusError) : (Resp.transportError e).terr = some e := rfl
@[simp] theorem Resp.unexpected_status : Resp.unexpected.status = .unexpectedValue := rfl
@[simp] theorem Resp.reject_status (r : Reason) : (Resp.reject r).status = .rejected := rfl
@[simp] theorem Resp.reject_reason (r : Reason) : (Resp.reject r).reason = some r := rfl

@[simp] theorem Resp.okay_consistent (x : Byte) : (Resp.okay x).consistent = true := rfl
@[simp] theorem Resp.transportError_consistent (e : BusError) : (Resp.transportError e).consistent = true := rfl
@[simp] theorem Resp.unexpected_consistent : Resp.unexpected.consistent = true := rfl
@[simp] theorem Resp.reject_consistent (r : Reason) : (Resp.reject r).consistent = true := rfl

end Sys2Proof.Machine
end

