-- ==== Sys2Proof/Laws/Layout.lean ====
section
/-! SUPPORT. What a catalog's well-formedness says of each register type. -/

namespace Sys2Proof

/-- R85 to R90 for one type of a catalog. -/
theorem Catalog.spec_wf (c : Catalog) (r : RegId) : (c.spec r).wf (regWritable r) = true := by
  have h := c.wf
  simp only [specsWf, Bool.and_eq_true, List.all_eq_true] at h
  exact h.1 r (List.mem_finRange r)

/-- R97 for the type CHG_CONFIG0 of a catalog. -/
theorem Catalog.chargerConfigOk (c : Catalog) : (c.spec 1).chargerConfigOk = true := by
  have h := c.wf
  simp only [specsWf, Bool.and_eq_true] at h
  exact h.2

/-- R94: a legal byte decodes to itself. -/
theorem Catalog.decodeByte_legal {c : Catalog} {r : RegId} {b : Byte} (h : c.legal r b = true) :
    c.decodeByte r b = some b := by simp [Catalog.decodeByte, h]

/-- R94: an illegal byte does not decode. -/
theorem Catalog.decodeByte_illegal {c : Catalog} {r : RegId} {b : Byte} (h : c.legal r b = false) :
    c.decodeByte r b = none := by simp [Catalog.decodeByte, h]

/-- R93: a legal byte is one every entry admits. -/
theorem Catalog.legal_iff (c : Catalog) (r : RegId) (b : Byte) :
    c.legal r b = true ↔ ∀ e ∈ (c.spec r).layout, e.admits b = true := by
  simp [Catalog.legal, RegSpec.legal]

/-- R86, from the tiling: the entries after `pos` start at `pos` or later and end within the byte. -/
theorem tilesFrom_fits : ∀ {pos : Nat} {es : List Entry}, tilesFrom pos es = true →
    pos ≤ 8 ∧ ∀ e ∈ es, pos ≤ e.off ∧ e.off + e.width ≤ 8
  | pos, [], h => by simp_all [tilesFrom]
  | pos, e :: es, h => by
    simp only [tilesFrom, Bool.and_eq_true, beq_iff_eq] at h
    have ih := tilesFrom_fits h.2
    refine ⟨by omega, fun q hq => ?_⟩
    rcases List.mem_cons.mp hq with rfl | hq
    · omega
    · have := ih.2 q hq
      omega

section
variable {c : Catalog} {r : RegId}

theorem Catalog.wf_parts : tilesFrom 0 (c.spec r).layout = true ∧ (∀ e ∈ (c.spec r).layout, e.kindOk = true) ∧
    (∀ e ∈ (c.spec r).layout, e.setterOk (regWritable r) = true) ∧ (c.spec r).fixv &&& ~~~c.rsvMask r = 0 := by
  have h := c.spec_wf r
  simp only [RegSpec.wf, Bool.and_eq_true, decide_eq_true_eq, List.all_eq_true, beq_iff_eq] at h
  exact ⟨h.1.1.1.2, h.1.1.2, h.1.2, h.2⟩

/-- Every entry lies within the byte. -/
theorem Catalog.entry_fits {e : Entry} (h : e ∈ (c.spec r).layout) : e.off + e.width ≤ 8 :=
  ((tilesFrom_fits Catalog.wf_parts.1).2 e h).2

/-- R88: a settable entry is no reserved range, and its type is writable. -/
theorem Catalog.settable_entry {e : Entry} (h : e ∈ (c.spec r).layout) (hs : e.settable = true) :
    regWritable r = true ∧ e.kind ≠ .rsv := by
  have := Catalog.wf_parts.2.2.1 e h
  simpa [Entry.setterOk, hs] using this

end

/-- R91 as arithmetic: `fieldval(b, e)` is the number in bits `off` to `off + w - 1`. -/
theorem Entry.fieldVal_toNat {e : Entry} (b : Byte) (h : e.off + e.width ≤ 8) :
    (e.fieldVal b).toNat = b.toNat / 2 ^ e.off % 2 ^ e.width := by
  have hw : 2 ^ e.width ≤ 2 ^ 8 := Nat.pow_le_pow_right (by omega) (by omega)
  have hp : 0 < 2 ^ e.width := Nat.two_pow_pos _
  simp only [Entry.fieldVal, lowMask, BitVec.toNat_and, BitVec.toNat_ushiftRight, BitVec.toNat_ofNat]
  rw [Nat.mod_eq_of_lt (by omega : 2 ^ e.width - 1 < 2 ^ 8), Nat.and_two_pow_sub_one_eq_mod, Nat.shiftRight_eq_div_pow]

end Sys2Proof
end

