-- ==== Sys2Proof/Laws/Operands.lean ====
section
/-! SUPPORT. Each operand check: when it passes, and what it answers when it does not. -/

namespace Sys2Proof

theorem Transform.apply_ofFun (f : Byte → Byte) (b : Byte) : (Transform.ofFun f).apply b = f b := by
  simp [Transform.ofFun, Transform.apply]

theorem Transform.apply_identity (b : Byte) : Transform.identity.apply b = b := Transform.apply_ofFun _ b

theorem Transform.typed_apply {c : Catalog} {r : RegId} {t : Transform} (h : t.typed c r = true) {v : Byte}
    (hv : c.legal r v = true) : c.legal r (t.apply v) = true := by
  have hb := List.all_eq_true.mp h v.toNat (List.mem_range.mpr v.isLt)
  simpa [hv] using hb

/-- A transform is typed when it answers values of the type for values of the type. -/
theorem Transform.typed_of {c : Catalog} {r : RegId} {t : Transform}
    (h : ∀ v, c.legal r v = true → c.legal r (t.apply v) = true) : t.typed c r = true := by
  refine List.all_eq_true.mpr fun n _ => ?_
  cases hv : c.legal r (BitVec.ofNat 8 n) with
  | false => simp
  | true => simp [h _ hv]

/-- R153: the values an entry with a setter may be given. -/
theorem Entry.legalCode_iff {e : Entry} {x : Nat} :
    e.legalCode x = true ↔ e.kind = .bool ∧ x ≤ 1 ∨ ∃ codes, e.kind = .enum codes ∧ x ∈ codes := by
  unfold Entry.legalCode
  split <;> simp_all

end Sys2Proof

namespace Sys2Proof.Machine

/-- A chain of checks passes when its first does and the rest do. -/
theorem checks_ok {α β : Type} {x : Except Reason α} {f : α → Except Reason β} {b : β} (h : (x >>= f) = .ok b) :
    ∃ a, x = .ok a ∧ f a = .ok b := by
  cases x with
  | error r => cases h
  | ok a => exact ⟨a, rfl, h⟩

theorem typeOf_lt {reg : BitVec 5} (h : reg.toNat < 18) : typeOf reg = .ok ⟨reg.toNat, h⟩ := by simp [typeOf, h]

theorem typeOf_ge {reg : BitVec 5} (h : ¬reg.toNat < 18) : typeOf reg = .error .badReg := by simp [typeOf, h]

theorem typeOf_ok {reg : BitVec 5} {r : RegId} (h : typeOf reg = .ok r) : reg.toNat = r.val := by
  unfold typeOf at h
  split at h
  · cases h; rfl
  · cases h

theorem rawAddress_ok {addr a : Byte} (h : rawAddress addr = .ok a) : a = addr ∧ isRegAddress addr = true := by
  unfold rawAddress at h
  split at h
  · cases h; exact ⟨rfl, ‹_›⟩
  · cases h

theorem requireWritable_ok {r : RegId} {u : Unit} (h : requireWritable r = .ok u) : regWritable r = true := by
  unfold requireWritable at h
  split at h
  · assumption
  · cases h

theorem requireLegal_ok {c : Catalog} {r : RegId} {v : Byte} {u : Unit} (h : requireLegal c r v = .ok u) :
    c.legal r v = true := by
  unfold requireLegal at h
  split at h
  · assumption
  · cases h

/-- The entry FLD names is the layout's, and it is no reserved range. -/
theorem entryOf_ok {c : Catalog} {r : RegId} {fld : BitVec 3} {e : Entry} (h : entryOf c r fld = .ok e) :
    (c.spec r).layout[fld.toNat]? = some e ∧ e.kind ≠ .rsv := by
  unfold entryOf at h
  split at h
  · split at h
    · cases h
    · cases h; exact ⟨‹_›, ‹_›⟩
  · cases h

/-- SET_FIELD's entry: of a writable type, the layout's own, no reserved range, with a setter. -/
theorem settableEntry_ok {c : Catalog} {r : RegId} {fld : BitVec 3} {e : Entry} (h : settableEntry c r fld = .ok e) :
    regWritable r = true ∧ (c.spec r).layout[fld.toNat]? = some e ∧ e.kind ≠ .rsv ∧ e.settable = true := by
  obtain ⟨_, hw, h⟩ := checks_ok h
  obtain ⟨q, he, h⟩ := checks_ok h
  obtain ⟨_, hs, h⟩ := checks_ok h
  cases h
  refine ⟨requireWritable_ok hw, (entryOf_ok he).1, (entryOf_ok he).2, ?_⟩
  unfold requireSettable at hs
  split at hs
  · assumption
  · cases hs

/-- And these are all the checks there are before the value's. -/
theorem settableEntry_of {c : Catalog} {r : RegId} {fld : BitVec 3} {e : Entry} (hw : regWritable r = true)
    (he : (c.spec r).layout[fld.toNat]? = some e) (hk : e.kind ≠ .rsv) (hs : e.settable = true) :
    settableEntry c r fld = .ok e := by
  simp [settableEntry, requireWritable, entryOf, requireSettable, hw, he, hk, hs, bind, Except.bind, pure, Except.pure]

section
variable {c : Catalog} {r : RegId} {f : Transform}

/-- What a well-formed `set` denotes. -/
theorem denote_set {fld : BitVec 3} {x : BitVec 6} (h : denote c r (.set fld x) = some f) :
    ∃ e, settableEntry c r fld = .ok e ∧ e.legalCode x.toNat = true ∧
      ∀ v, f.apply v = e.setField v (x.setWidth 8) := by
  simp only [denote] at h
  split at h
  · split at h
    · obtain rfl := Option.some.inj h
      exact ⟨_, ‹_›, ‹_›, fun v => Transform.apply_ofFun _ v⟩
    · cases h
  · cases h

/-- What a well-formed `flip` denotes. -/
theorem denote_flip {fld : BitVec 3} (h : denote c r (.flip fld) = some f) :
    ∃ e, settableEntry c r fld = .ok e ∧ e.kind = .bool ∧ ∀ v, f.apply v = e.setField v (1 - e.fieldVal v) := by
  simp only [denote] at h
  split at h
  · split at h
    · obtain rfl := Option.some.inj h
      exact ⟨_, ‹_›, ‹_›, fun v => Transform.apply_ofFun _ v⟩
    · cases h
  · cases h

/-- What a well-formed `t1 ; t2` denotes. -/
theorem denote_seq {t1 t2 : XExpr} (h : denote c r (.seq t1 t2) = some f) :
    ∃ f1 f2, denote c r t1 = some f1 ∧ denote c r t2 = some f2 ∧ f1.typed c r = true ∧
      ∀ v, f.apply v = f2.apply (f1.apply v) := by
  simp only [denote] at h
  split at h
  · split at h
    · obtain rfl := Option.some.inj h
      exact ⟨_, _, ‹_›, ‹_›, ‹_›, fun v => Transform.apply_ofFun _ v⟩
    · cases h
  · cases h

end

end Sys2Proof.Machine
end

