-- ==== Sys2Proof/Laws/State.lean ====
section
/-! SUPPORT. Each field after each named update of the state: one lemma a field, so that no proof unfolds an update. -/

namespace Sys2Proof.Machine

variable (s : State)

@[simp] theorem State.offer_st (sub : Submission) : (s.offer sub).st = s.st := rfl
@[simp] theorem State.offer_op (sub : Submission) : (s.offer sub).op = s.op := rfl
@[simp] theorem State.offer_rid (sub : Submission) : (s.offer sub).rid = s.rid := rfl
@[simp] theorem State.offer_a (sub : Submission) : (s.offer sub).a = s.a := rfl
@[simp] theorem State.offer_d (sub : Submission) : (s.offer sub).d = s.d := rfl
@[simp] theorem State.offer_v (sub : Submission) : (s.offer sub).v = s.v := rfl
@[simp] theorem State.offer_xf (sub : Submission) : (s.offer sub).xf = s.xf := rfl
@[simp] theorem State.offer_resp (sub : Submission) : (s.offer sub).resp = s.resp := rfl
@[simp] theorem State.offer_respValid (sub : Submission) : (s.offer sub).respValid = s.respValid := rfl
@[simp] theorem State.offer_trace (sub : Submission) : (s.offer sub).trace = s.trace := rfl
@[simp] theorem State.offer_catalog (sub : Submission) : (s.offer sub).catalog = s.catalog := rfl
@[simp] theorem State.offer_port (sub : Submission) : (s.offer sub).port = sub :: s.port := rfl
@[simp] theorem State.offer_writeAnswers (sub : Submission) : (s.offer sub).writeAnswers = s.writeAnswers := rfl
@[simp] theorem State.offer_readAnswers (sub : Submission) : (s.offer sub).readAnswers = s.readAnswers := rfl

@[simp] theorem State.takeWord_st : (s.takeWord).st = s.st := rfl
@[simp] theorem State.takeWord_op : (s.takeWord).op = s.op := rfl
@[simp] theorem State.takeWord_rid : (s.takeWord).rid = s.rid := rfl
@[simp] theorem State.takeWord_a : (s.takeWord).a = s.a := rfl
@[simp] theorem State.takeWord_d : (s.takeWord).d = s.d := rfl
@[simp] theorem State.takeWord_v : (s.takeWord).v = s.v := rfl
@[simp] theorem State.takeWord_xf : (s.takeWord).xf = s.xf := rfl
@[simp] theorem State.takeWord_resp : (s.takeWord).resp = s.resp := rfl
@[simp] theorem State.takeWord_respValid : (s.takeWord).respValid = s.respValid := rfl
@[simp] theorem State.takeWord_trace : (s.takeWord).trace = s.trace := rfl
@[simp] theorem State.takeWord_catalog : (s.takeWord).catalog = s.catalog := rfl
@[simp] theorem State.takeWord_port : (s.takeWord).port = s.port.tail := rfl
@[simp] theorem State.takeWord_writeAnswers : (s.takeWord).writeAnswers = s.writeAnswers := rfl
@[simp] theorem State.takeWord_readAnswers : (s.takeWord).readAnswers = s.readAnswers := rfl

@[simp] theorem State.finish_st (r : Resp) : (s.finish r).st = .idle := rfl
@[simp] theorem State.finish_op (r : Resp) : (s.finish r).op = s.op := rfl
@[simp] theorem State.finish_rid (r : Resp) : (s.finish r).rid = s.rid := rfl
@[simp] theorem State.finish_a (r : Resp) : (s.finish r).a = s.a := rfl
@[simp] theorem State.finish_d (r : Resp) : (s.finish r).d = s.d := rfl
@[simp] theorem State.finish_v (r : Resp) : (s.finish r).v = s.v := rfl
@[simp] theorem State.finish_xf (r : Resp) : (s.finish r).xf = s.xf := rfl
@[simp] theorem State.finish_resp (r : Resp) : (s.finish r).resp = r := rfl
@[simp] theorem State.finish_respValid (r : Resp) : (s.finish r).respValid = true := rfl
@[simp] theorem State.finish_trace (r : Resp) : (s.finish r).trace = s.trace := rfl
@[simp] theorem State.finish_catalog (r : Resp) : (s.finish r).catalog = s.catalog := rfl
@[simp] theorem State.finish_port (r : Resp) : (s.finish r).port = s.port := rfl
@[simp] theorem State.finish_writeAnswers (r : Resp) : (s.finish r).writeAnswers = s.writeAnswers := rfl
@[simp] theorem State.finish_readAnswers (r : Resp) : (s.finish r).readAnswers = s.readAnswers := rfl

@[simp] theorem State.start_st (op : Opcode) (first : FsmState) : (s.start op first).st = first := rfl
@[simp] theorem State.start_op (op : Opcode) (first : FsmState) : (s.start op first).op = op := rfl
@[simp] theorem State.start_rid (op : Opcode) (first : FsmState) : (s.start op first).rid = s.rid := rfl
@[simp] theorem State.start_a (op : Opcode) (first : FsmState) : (s.start op first).a = s.a := rfl
@[simp] theorem State.start_d (op : Opcode) (first : FsmState) : (s.start op first).d = s.d := rfl
@[simp] theorem State.start_v (op : Opcode) (first : FsmState) : (s.start op first).v = s.v := rfl
@[simp] theorem State.start_xf (op : Opcode) (first : FsmState) : (s.start op first).xf = s.xf := rfl
@[simp] theorem State.start_resp (op : Opcode) (first : FsmState) : (s.start op first).resp = s.resp := rfl
@[simp] theorem State.start_respValid (op : Opcode) (first : FsmState) : (s.start op first).respValid = false := rfl
@[simp] theorem State.start_trace (op : Opcode) (first : FsmState) : (s.start op first).trace = s.trace := rfl
@[simp] theorem State.start_catalog (op : Opcode) (first : FsmState) : (s.start op first).catalog = s.catalog := rfl
@[simp] theorem State.start_port (op : Opcode) (first : FsmState) : (s.start op first).port = s.port := rfl
@[simp] theorem State.start_writeAnswers (op : Opcode) (first : FsmState) : (s.start op first).writeAnswers = s.writeAnswers := rfl
@[simp] theorem State.start_readAnswers (op : Opcode) (first : FsmState) : (s.start op first).readAnswers = s.readAnswers := rfl

@[simp] theorem State.didWrite_st (b : Byte) (r : WriteAnswer) : (s.didWrite b r).st = s.st := rfl
@[simp] theorem State.didWrite_op (b : Byte) (r : WriteAnswer) : (s.didWrite b r).op = s.op := rfl
@[simp] theorem State.didWrite_rid (b : Byte) (r : WriteAnswer) : (s.didWrite b r).rid = s.rid := rfl
@[simp] theorem State.didWrite_a (b : Byte) (r : WriteAnswer) : (s.didWrite b r).a = s.a := rfl
@[simp] theorem State.didWrite_d (b : Byte) (r : WriteAnswer) : (s.didWrite b r).d = s.d := rfl
@[simp] theorem State.didWrite_v (b : Byte) (r : WriteAnswer) : (s.didWrite b r).v = s.v := rfl
@[simp] theorem State.didWrite_xf (b : Byte) (r : WriteAnswer) : (s.didWrite b r).xf = s.xf := rfl
@[simp] theorem State.didWrite_resp (b : Byte) (r : WriteAnswer) : (s.didWrite b r).resp = s.resp := rfl
@[simp] theorem State.didWrite_respValid (b : Byte) (r : WriteAnswer) : (s.didWrite b r).respValid = s.respValid := rfl
@[simp] theorem State.didWrite_trace (b : Byte) (r : WriteAnswer) : (s.didWrite b r).trace = s.trace ++ [.bw Config.devAddr b r] := rfl
@[simp] theorem State.didWrite_catalog (b : Byte) (r : WriteAnswer) : (s.didWrite b r).catalog = s.catalog := rfl
@[simp] theorem State.didWrite_port (b : Byte) (r : WriteAnswer) : (s.didWrite b r).port = s.port := rfl
@[simp] theorem State.didWrite_writeAnswers (b : Byte) (r : WriteAnswer) : (s.didWrite b r).writeAnswers = s.writeAnswers.tail := rfl
@[simp] theorem State.didWrite_readAnswers (b : Byte) (r : WriteAnswer) : (s.didWrite b r).readAnswers = s.readAnswers := rfl

@[simp] theorem State.didRead_st (r : ReadAnswer) : (s.didRead r).st = s.st := rfl
@[simp] theorem State.didRead_op (r : ReadAnswer) : (s.didRead r).op = s.op := rfl
@[simp] theorem State.didRead_rid (r : ReadAnswer) : (s.didRead r).rid = s.rid := rfl
@[simp] theorem State.didRead_a (r : ReadAnswer) : (s.didRead r).a = s.a := rfl
@[simp] theorem State.didRead_d (r : ReadAnswer) : (s.didRead r).d = s.d := rfl
@[simp] theorem State.didRead_v (r : ReadAnswer) : (s.didRead r).v = s.v := rfl
@[simp] theorem State.didRead_xf (r : ReadAnswer) : (s.didRead r).xf = s.xf := rfl
@[simp] theorem State.didRead_resp (r : ReadAnswer) : (s.didRead r).resp = s.resp := rfl
@[simp] theorem State.didRead_respValid (r : ReadAnswer) : (s.didRead r).respValid = s.respValid := rfl
@[simp] theorem State.didRead_trace (r : ReadAnswer) : (s.didRead r).trace = s.trace ++ [.br Config.devAddr r] := rfl
@[simp] theorem State.didRead_catalog (r : ReadAnswer) : (s.didRead r).catalog = s.catalog := rfl
@[simp] theorem State.didRead_port (r : ReadAnswer) : (s.didRead r).port = s.port := rfl
@[simp] theorem State.didRead_writeAnswers (r : ReadAnswer) : (s.didRead r).writeAnswers = s.writeAnswers := rfl
@[simp] theorem State.didRead_readAnswers (r : ReadAnswer) : (s.didRead r).readAnswers = s.readAnswers.tail := rfl

@[simp] theorem State.raiseTransport_eq (e : BusError) : s.raiseTransport e = s.finish (.transportError e) := rfl
@[simp] theorem State.raiseUnexpectedValue_eq : s.raiseUnexpectedValue = s.finish .unexpected := rfl
@[simp] theorem State.raiseRejected_eq (r : Reason) : s.raiseRejected r = s.finish (.reject r) := rfl

end Sys2Proof.Machine
end

