-- ==== Sys2Proof/Laws/Ops.lean ====
section
/-! SUPPORT. Each shared operation, once: everything a bus phase or an accepting step can do. -/

namespace Sys2Proof.Machine

/-- An unanswered bus write leaves the state as it is (R113). -/
theorem busWrite_unanswered {s : State} {b : Byte} {k} (h : s.writeAnswers = []) : busWrite s b k = .next s := by
  simp [busWrite, h]

/-- An answered bus write goes on with the answer, used up and recorded. -/
theorem busWrite_answered {s : State} {b : Byte} {k r ws} (h : s.writeAnswers = r :: ws) :
    busWrite s b k = k r (s.didWrite b r) := by
  simp [busWrite, h]

/-- An unanswered bus read leaves the state as it is (R113). -/
theorem busRead_unanswered {s : State} {k} (h : s.readAnswers = []) : busRead s k = .next s := by
  simp [busRead, h]

/-- An answered bus read goes on with the answer, used up and recorded. -/
theorem busRead_answered {s : State} {k r rs} (h : s.readAnswers = r :: rs) : busRead s k = k r (s.didRead r) := by
  simp [busRead, h]

/-- All a bus write can do. -/
theorem busWrite_next {s t : State} {b : Byte} {k} (h : busWrite s b k = .next t) :
    (s.writeAnswers = [] ∧ t = s) ∨ ∃ r ws, s.writeAnswers = r :: ws ∧ k r (s.didWrite b r) = .next t := by
  cases hw : s.writeAnswers with
  | nil => rw [busWrite_unanswered hw] at h; cases h; exact .inl ⟨rfl, rfl⟩
  | cons r ws => rw [busWrite_answered hw] at h; exact .inr ⟨r, ws, rfl, h⟩

/-- All a bus read can do. -/
theorem busRead_next {s t : State} {k} (h : busRead s k = .next t) :
    (s.readAnswers = [] ∧ t = s) ∨ ∃ r rs, s.readAnswers = r :: rs ∧ k r (s.didRead r) = .next t := by
  cases hr : s.readAnswers with
  | nil => rw [busRead_unanswered hr] at h; cases h; exact .inl ⟨rfl, rfl⟩
  | cons r rs => rw [busRead_answered hr] at h; exact .inr ⟨r, rs, rfl, h⟩

section
variable {α : Type} {s : State} {checks : Except Reason α} {run : α → State → State}

/-- While busy the command offered is not taken (R27, R182). -/
theorem accept_busy (h : s.st ≠ .idle) : accept s checks run = .next s := by simp [accept, h]

/-- In IDLE a failing check is answered (R155). -/
theorem accept_rejected {r : Reason} (h : s.st = .idle) (hc : checks = .error r) :
    accept s checks run = .next (s.takeWord.finish (.reject r)) := by simp [accept, h, hc]

/-- In IDLE a command whose checks pass runs (R141). -/
theorem accept_ok {x : α} (h : s.st = .idle) (hc : checks = .ok x) :
    accept s checks run = .next (run x s.takeWord) := by simp [accept, h, hc]

/-- All an accepting step can do; it always answers a next state. -/
theorem accept_cases :
    (s.st ≠ .idle ∧ accept s checks run = .next s) ∨
      (s.st = .idle ∧ ∃ r, checks = .error r ∧ accept s checks run = .next (s.takeWord.finish (.reject r))) ∨
      (s.st = .idle ∧ ∃ x, checks = .ok x ∧ accept s checks run = .next (run x s.takeWord)) := by
  by_cases h : s.st = .idle
  · cases hc : checks with
    | error r => exact .inr (.inl ⟨h, r, rfl, accept_rejected h rfl⟩)
    | ok x => exact .inr (.inr ⟨h, x, rfl, accept_ok h rfl⟩)
  · exact .inl ⟨h, accept_busy h⟩

end

end Sys2Proof.Machine
end

