-- ==== Sys2Proof/Laws/PerInstr.lean ====
section
/-! SUPPORT. A statement about each command as text: its encoding holds its own opcode in bits 3..0 (R66, R71). -/

namespace Sys2Proof.Laws.Opcodes

/-- R71: the opcode of a command. -/
def opcodeOf : Instr → Opcode
  | .readRaw _ => .readRaw
  | .writeRaw _ _ => .writeRaw
  | .readReg _ => .readReg
  | .writeReg _ _ => .writeReg
  | .editReg _ => .editReg
  | .decode _ _ => .decode
  | .encode _ _ => .encode
  | .addressOf _ => .addressOf
  | .getField _ _ _ => .getField
  | .setField _ _ _ _ => .setField

/-- The low four bits of the command's word are its opcode. -/
def Statement (i : Instr) : Prop := opField (encode i) = opcodeOf i

theorem opField_append {n : Nat} (x : BitVec n) (op : Opcode) : (x ++ op).extractLsb' 0 4 = op := by
  ext k hk
  simp [BitVec.getLsbD_append, hk]

theorem readRaw (addr : Byte) : Statement (.readRaw addr) := opField_append _ _
theorem writeRaw (addr data : Byte) : Statement (.writeRaw addr data) := opField_append _ _
theorem readReg (reg : BitVec 5) : Statement (.readReg reg) := opField_append _ _
theorem writeReg (reg : BitVec 5) (data : Byte) : Statement (.writeReg reg data) := opField_append _ _
theorem editReg (reg : BitVec 5) : Statement (.editReg reg) := opField_append _ _
theorem decode (reg : BitVec 5) (data : Byte) : Statement (.decode reg data) := opField_append _ _
theorem encode (reg : BitVec 5) (data : Byte) : Statement (.encode reg data) := opField_append _ _
theorem addressOf (reg : BitVec 5) : Statement (.addressOf reg) := opField_append _ _
theorem getField (reg : BitVec 5) (fld : BitVec 3) (data : Byte) : Statement (.getField reg fld data) :=
  opField_append _ _
theorem setField (reg : BitVec 5) (fld : BitVec 3) (fval : BitVec 6) (data : Byte) :
    Statement (.setField reg fld fval data) := opField_append _ _

end Sys2Proof.Laws.Opcodes
end

