-- ==== Sys2Proof/Laws/Sequencer.lean ====
section
/-! SUPPORT. What one step can do, said once: a step out of each state, and everything an accepting step can answer. -/

namespace Sys2Proof.Machine

variable {s t : State}

theorem step_idle (h : s.st = .idle) : step s = stepIdle s := by simp [step, fsmStep, h]
theorem step_rsel (h : s.st = .rsel) : step s = stepRsel s := by simp [step, fsmStep, h]
theorem step_rfetch (h : s.st = .rfetch) : step s = stepRfetch s := by simp [step, fsmStep, h]
theorem step_dec (h : s.st = .dec) : step s = stepDec s := by simp [step, fsmStep, h]
theorem step_xf (h : s.st = .xf) : step s = stepXf s := by simp [step, fsmStep, h]
theorem step_enc (h : s.st = .enc) : step s = stepEnc s := by simp [step, fsmStep, h]
theorem step_wsel (h : s.st = .wsel) : step s = stepWsel s := by simp [step, fsmStep, h]
theorem step_wdata (h : s.st = .wdata) : step s = stepWdata s := by simp [step, fsmStep, h]

/-- Everything an accepting step out of IDLE can do: reject, answer at once, or start one of the five bus commands with
the latches R140's table names. -/
inductive Accepts (s : State) : State → Prop where
  | rejected (r : Reason) : Accepts s (s.takeWord.finish (.reject r))
  | answered (r : Resp) (h : r.consistent = true) : Accepts s (s.takeWord.finish r)
  | readRaw (a : Byte) (h : isRegAddress a = true) : Accepts s { s.takeWord.start .readRaw .rsel with a := a }
  | writeRaw (a d : Byte) (h : isRegAddress a = true) :
      Accepts s { s.takeWord.start .writeRaw .wsel with a := a, d := d }
  | readReg (r : RegId) : Accepts s { s.takeWord.start .readReg .rsel with rid := r, a := regAddress r }
  | writeReg (r : RegId) (v : Byte) (hw : regWritable r = true) (hv : s.catalog.legal r v = true) :
      Accepts s { s.takeWord.start .writeReg .enc with rid := r, a := regAddress r, v := v }
  | editReg (r : RegId) (hw : regWritable r = true) :
      Accepts s { s.takeWord.start .editReg .rsel with rid := r, a := regAddress r, xf := s.offeredXf }

/-- `exec` always answers a next state; while busy it is the same state (R27). -/
theorem exec_busy (i : Instr) (h : s.st ≠ .idle) : exec i s = .next s := by
  cases i <;> simp only [exec, execReadRaw, execWriteRaw, execReadReg, execWriteReg, execEditReg, execDecode,
    execEncode, execAddressOf, execGetField, execSetField, accept_busy h]

theorem accept_accepts {α : Type} {checks : Except Reason α} {run : α → State → State} (h : s.st = .idle)
    (hrun : ∀ x, checks = .ok x → Accepts s (run x s.takeWord)) : ∃ t, accept s checks run = .next t ∧ Accepts s t := by
  cases hc : checks with
  | error r => exact ⟨_, accept_rejected h rfl, .rejected r⟩
  | ok x => exact ⟨_, accept_ok h rfl, hrun x hc⟩

/-- Everything a command's accepting step can do. -/
theorem exec_accepts (i : Instr) (h : s.st = .idle) : ∃ t, exec i s = .next t ∧ Accepts s t := by
  cases i <;> simp only [exec, execReadRaw, execWriteRaw, execReadReg, execWriteReg, execEditReg, execDecode, execEncode,
    execAddressOf, execGetField, execSetField] <;> refine accept_accepts h fun x hc => ?_
  case readRaw =>
    obtain ⟨rfl, ha⟩ := rawAddress_ok hc
    exact .readRaw _ ha
  case writeRaw =>
    obtain ⟨rfl, ha⟩ := rawAddress_ok hc
    exact .writeRaw _ _ ha
  case readReg => exact .readReg _
  case writeReg =>
    obtain ⟨r, -, hc⟩ := checks_ok hc
    obtain ⟨_, hw, hc⟩ := checks_ok hc
    obtain ⟨_, hv, hc⟩ := checks_ok hc
    cases hc
    exact .writeReg _ _ (requireWritable_ok hw) (requireLegal_ok hv)
  case editReg =>
    obtain ⟨r, -, hc⟩ := checks_ok hc
    obtain ⟨_, hw, hc⟩ := checks_ok hc
    cases hc
    exact .editReg _ (requireWritable_ok hw)
  case decode =>
    split <;> exact .answered _ (by simp)
  case encode => exact .answered _ (by simp)
  case addressOf => exact .answered _ (by simp)
  case getField => exact .answered _ (by simp)
  case setField => exact .answered _ (by simp)

/-- Everything a step out of IDLE can do. -/
theorem stepIdle_cases (h : s.st = .idle) :
    (s.port = [] ∧ stepIdle s = .next s) ∨ (s.port ≠ [] ∧ ∃ t, stepIdle s = .next t ∧ Accepts s t) := by
  cases hp : s.port with
  | nil => exact .inl ⟨rfl, by simp [stepIdle, hp]⟩
  | cons sub subs =>
    refine .inr ⟨by simp, ?_⟩
    cases hd : decode sub.word with
    | error r => exact ⟨_, by simp [stepIdle, hp, hd], .rejected r⟩
    | ok i =>
      obtain ⟨t, ht, ha⟩ := exec_accepts i h
      exact ⟨t, by simp [stepIdle, hp, hd, ht], ha⟩

/-- What a step out of a busy state can do. `Advances s t`: one row of R140's table, or a phase not answered. -/
inductive Advances (s : State) : State → Prop where
  | waits (h : s.st = .rsel ∨ s.st = .rfetch ∨ s.st = .wsel ∨ s.st = .wdata) : Advances s s
  | selectFailed (h : s.st = .rsel ∨ s.st = .wsel) (e : BusError) :
      Advances s ((s.didWrite s.a (.err e)).finish (.transportError e))
  | readSelected (h : s.st = .rsel) : Advances s { s.didWrite s.a .ok with st := .rfetch }
  | fetchFailed (h : s.st = .rfetch) (e : BusError) : Advances s ((s.didRead (.err e)).finish (.transportError e))
  | fetchedRaw (h : s.st = .rfetch) (ho : s.op = .readRaw) (b : Byte) :
      Advances s ({ s.didRead (.ok b) with d := b }.finish (.okay b))
  | fetched (h : s.st = .rfetch) (ho : s.op = .readReg ∨ s.op = .editReg) (b : Byte) :
      Advances s { s.didRead (.ok b) with d := b, st := .dec }
  | undecodable (h : s.st = .dec) (hl : s.catalog.legal s.rid s.d = false) : Advances s (s.finish .unexpected)
  | decoded (h : s.st = .dec) (ho : s.op = .readReg) (hl : s.catalog.legal s.rid s.d = true) :
      Advances s ({ s with v := s.d }.finish (.okay s.d))
  | toTransform (h : s.st = .dec) (ho : s.op = .editReg) (hl : s.catalog.legal s.rid s.d = true) :
      Advances s { s with v := s.d, st := .xf }
  | illegalTransform (h : s.st = .xf) (hl : s.catalog.legal s.rid (s.xf.apply s.v) = false) :
      Advances s (s.finish (.reject .xformIllegal))
  | transformed (h : s.st = .xf) (hl : s.catalog.legal s.rid (s.xf.apply s.v) = true) :
      Advances s { s with v := s.xf.apply s.v, st := .enc }
  | encoded (h : s.st = .enc) : Advances s { s with d := s.catalog.encodeByte s.rid s.v, st := .wsel }
  | writeSelected (h : s.st = .wsel) : Advances s { s.didWrite s.a .ok with st := .wdata }
  | dataFailed (h : s.st = .wdata) (e : BusError) :
      Advances s ((s.didWrite s.d (.err e)).finish (.transportError e))
  | dataWritten (h : s.st = .wdata) : Advances s ((s.didWrite s.d .ok).finish (.okay 0))

/-- Everything a step can do. -/
theorem step_next (h : step s = .next t) :
    (s.st = .idle ∧ (s.port = [] ∧ t = s ∨ s.port ≠ [] ∧ Accepts s t)) ∨ (s.st ≠ .idle ∧ Advances s t) := by
  cases hst : s.st
  case idle =>
    rw [step_idle hst] at h
    rcases stepIdle_cases hst with ⟨hp, hs⟩ | ⟨hp, u, hs, ha⟩
    · rw [hs] at h; cases h; exact .inl ⟨rfl, .inl ⟨hp, rfl⟩⟩
    · rw [hs] at h; cases h; exact .inl ⟨rfl, .inr ⟨hp, ha⟩⟩
  all_goals refine .inr ⟨by simp, ?_⟩
  case rsel =>
    rw [step_rsel hst] at h
    rcases busWrite_next h with ⟨-, rfl⟩ | ⟨r, ws, -, h⟩
    · exact .waits (.inl hst)
    · cases r <;> cases h
      · exact .readSelected hst
      · exact .selectFailed (.inl hst) _
  case rfetch =>
    rw [step_rfetch hst] at h
    rcases busRead_next h with ⟨-, rfl⟩ | ⟨r, rs, -, h⟩
    · exact .waits (.inr (.inl hst))
    · cases r with
      | err e => cases h; exact .fetchFailed hst e
      | ok b =>
        simp only [State.didRead_op] at h
        split at h
        · cases h; exact .fetchedRaw hst ‹_› b
        · split at h
          · cases h; exact .fetched hst ‹_› b
          · cases h
  case dec =>
    rw [step_dec hst] at h
    unfold stepDec at h
    cases hl : s.catalog.legal s.rid s.d with
    | false =>
      rw [Catalog.decodeByte_illegal hl] at h
      cases h
      exact .undecodable hst hl
    | true =>
      rw [Catalog.decodeByte_legal hl] at h
      dsimp only at h
      split at h
      · cases h; exact .decoded hst ‹_› hl
      · split at h
        · cases h; exact .toTransform hst ‹_› hl
        · cases h
  case xf =>
    rw [step_xf hst] at h
    simp only [stepXf] at h
    split at h <;> cases h
    · exact .transformed hst ‹_›
    · exact .illegalTransform hst (Bool.eq_false_iff.mpr ‹_›)
  case enc =>
    rw [step_enc hst] at h
    cases h
    exact .encoded hst
  case wsel =>
    rw [step_wsel hst] at h
    rcases busWrite_next h with ⟨-, rfl⟩ | ⟨r, ws, -, h⟩
    · exact .waits (.inr (.inr (.inl hst)))
    · cases r <;> cases h
      · exact .writeSelected hst
      · exact .selectFailed (.inr hst) _
  case wdata =>
    rw [step_wdata hst] at h
    rcases busWrite_next h with ⟨-, rfl⟩ | ⟨r, ws, -, h⟩
    · exact .waits (.inr (.inr (.inr hst)))
    · cases r <;> cases h
      · exact .dataWritten hst
      · exact .dataFailed hst _

end Sys2Proof.Machine
end

