-- ==== Sys2Proof/Laws/Safety.lean ====
section
/-! SUPPORT. The small lemmas of Safety.lean's definitions. -/

namespace Sys2Proof.Machine

theorem runSteps_succ {k : Nat} {s t : State} (h : step s = .next t) : runSteps (k + 1) s = runSteps k t := by
  simp [runSteps, h]

/-- A run of `j` steps goes on for `k` more from where it stands. -/
theorem runSteps_add : ∀ {j k : Nat} {s t : State}, runSteps j s = .next t → runSteps (j + k) s = runSteps k t
  | 0, k, s, t, h => by cases h; simp
  | j + 1, k, s, t, h => by
    rw [show j + 1 + k = (j + k) + 1 by omega]
    cases hs : step s with
    | next u =>
      rw [runSteps_succ hs] at h ⊢
      exact runSteps_add h
    | fault f => simp [runSteps, hs] at h
    | refused r => simp [runSteps, hs] at h

theorem outstandingSelect_append (trace : List Phase) (p : Phase) :
    outstandingSelect (trace ++ [p]) = selectAfter (outstandingSelect trace) p := by
  simp [outstandingSelect]

theorem State.readResponse_finish (s : State) (r : Resp) : (s.finish r).readResponse = some r := rfl

/-- R27, R28: a running command has no response to read. -/
theorem State.readResponse_invalid {s : State} (h : s.respValid = false) : s.readResponse = none := by
  simp [State.readResponse, h]

end Sys2Proof.Machine
end

