-- ==== Sys2Proof/Tests/Slice0.lean ====
section
/-! SUPPORT. The model's own tests. Every expected value is the spec's: a word written out from R66 to R72, or a row of
spec/95_test_vectors.md (its id in the docstring), under that file's fixture FX. The last part shows, for each
statement of Obligations.lean that has hypotheses, states and operands that meet them. -/

namespace Sys2Proof.Tests

open Sys2Proof Sys2Proof.Machine

/-! The fixture FX (95_test_vectors.md section 1). -/

/-- Entry 2 of CHG_CONFIG0 in FX. -/
def fxMode : Entry := ⟨"fx_mode", 3, 2, .enum [0, 1, 2], true⟩

/-- Entry 3 of CONTROL0 in FX. -/
def fxLevel : Entry := ⟨"fx_level", 4, 4, .enum [0, 1, 2, 3, 4, 5, 6, 7, 8, 9], true⟩

/-- Entry 0 of CHG_CONFIG0 in FX. -/
def fxEnabled : Entry := ⟨"charger_enabled", 0, 1, .bool, true⟩

/-- Entry 2 of CONTROL0 in FX. -/
def fxRo : Entry := ⟨"fx_ro", 3, 1, .bool, false⟩

/-- The 15 types of eight one-bit fields. -/
def fxFlags (writable : Bool) : RegSpec :=
  ⟨[⟨"b0", 0, 1, .bool, writable⟩, ⟨"b1", 1, 1, .bool, writable⟩, ⟨"b2", 2, 1, .bool, writable⟩,
    ⟨"b3", 3, 1, .bool, writable⟩, ⟨"b4", 4, 1, .bool, writable⟩, ⟨"b5", 5, 1, .bool, writable⟩,
    ⟨"b6", 6, 1, .bool, writable⟩, ⟨"b7", 7, 1, .bool, writable⟩], .fixed, 0⟩

def fxSpecs : Vector RegSpec 18 := #v[
  ⟨[⟨"fx_a", 0, 1, .bool, false⟩, ⟨"fx_b", 1, 1, .bool, false⟩, ⟨"fx_state", 2, 2, .enum [0, 1, 3], false⟩,
    ⟨"rsv", 4, 4, .rsv, false⟩], .pass, 0⟩,
  ⟨[fxEnabled, ⟨"ac_input_current", 1, 2, .enum [0, 1, 2, 3], true⟩, fxMode, ⟨"rsv", 5, 3, .rsv, false⟩], .fixed, 0⟩,
  fxFlags true, fxFlags true, fxFlags true, fxFlags false, fxFlags true, fxFlags true,
  ⟨[⟨"rsv", 0, 2, .rsv, false⟩, ⟨"fx_en", 2, 1, .bool, true⟩, fxRo, fxLevel], .pass, 0⟩,
  fxFlags true, fxFlags true, fxFlags true, fxFlags false, fxFlags false, fxFlags false, fxFlags true, fxFlags true,
  fxFlags true]

/-- FX is a catalog this hardware can have. -/
theorem test_fx_wellFormed : specsWf fxSpecs = true := by decide +kernel

def fx : Catalog := ⟨fxSpecs, test_fx_wellFormed⟩

/-- R86: a layout whose entries leave a bit out, or overlap, is refused; so is R88's settable reserved range. -/
theorem test_ill_formed_layouts :
    RegSpec.wf true ⟨[⟨"b", 0, 1, .bool, true⟩, ⟨"rsv", 2, 6, .rsv, false⟩], .pass, 0⟩ = false ∧
    RegSpec.wf true ⟨[⟨"b", 0, 1, .bool, true⟩, ⟨"rsv", 0, 8, .rsv, false⟩], .pass, 0⟩ = false ∧
    RegSpec.wf true ⟨[⟨"rsv", 0, 8, .rsv, true⟩], .pass, 0⟩ = false ∧
    RegSpec.wf true ⟨[⟨"e", 0, 1, .enum [0], true⟩, ⟨"rsv", 1, 7, .rsv, false⟩], .pass, 0⟩ = false ∧
    RegSpec.wf true ⟨[⟨"b", 0, 1, .bool, true⟩, ⟨"rsv", 1, 7, .rsv, false⟩], .fixed, 1⟩ = false := by decide

/-! States. -/

/-- IDLE under FX, with a word and its transform offered and the transport's answers ready. -/
def offered (w : Word) (f : Transform) (ws : List WriteAnswer) (rs : List ReadAnswer) : State :=
  { State.reset with catalog := fx, port := [⟨w, f⟩], writeAnswers := ws, readAnswers := rs }

/-- IDLE under FX, with a word offered. -/
def idleWith (w : Word) : State := offered w Transform.identity [] []

/-- A field of the next state, where there is one. -/
def after {α : Type} (o : StepResult) (f : State → α) : Option α :=
  match o with
  | .next s => some (f s)
  | .fault _ => none
  | .refused _ => none

/-- What a test looks at in a next state from outside: `st`, the response with its packed word, and the trace. -/
structure Seen where
  st : FsmState
  respValid : Bool
  word : Word
  terr : Option BusError
  trace : List Phase
deriving DecidableEq, Repr

def seen (s : State) : Seen := ⟨s.st, s.respValid, s.resp.pack, s.resp.terr, s.trace⟩

/-- The latches. -/
structure Latches where
  st : FsmState
  op : Opcode
  rid : RegId
  a : Byte
  d : Byte
  v : Byte
deriving DecidableEq, Repr

def latches (s : State) : Latches := ⟨s.st, s.op, s.rid, s.a, s.d, s.v⟩

/-- A command that ended in its accepting step with this response word, and no phase. -/
def ended (w : Word) : Option Seen := some ⟨.idle, true, w, none, []⟩

/-! Decoding: the words of R67 to R69 written out bit by bit. -/

/-- READ_RAW 0x02: `DATA 0 | ADDR 00000010 | 0 | OP 0001`. -/
theorem test_decode_read_raw : decode 0b00000000_00000010_000000000000_0001 = .ok (.readRaw 0x02) := by decide

/-- WRITE_RAW 0xE0, 0x55. -/
theorem test_decode_write_raw : decode 0b01010101_11100000_000000000000_0010 = .ok (.writeRaw 0xE0 0x55) := by decide

/-- READ_REG #17: `DATA 0 | 0 | REG 10001 | OP 0011`. -/
theorem test_decode_read_reg : decode 0b00000000_000000000000000_10001_0011 = .ok (.readReg 17) := by decide

/-- WRITE_REG CONTROL0, 0x93. -/
theorem test_decode_write_reg : decode 0b10010011_000000000000000_01000_0100 = .ok (.writeReg 8 0x93) := by decide

/-- EDIT_REG CHG_CONFIG0. -/
theorem test_decode_edit_reg : decode 0b00000000_000000000000000_00001_0101 = .ok (.editReg 1) := by decide

/-- DECODE #18, 0x80: a type id that names no type is still the command's operand (R74). -/
theorem test_decode_decode : decode 0b10000000_000000000000000_10010_1000 = .ok (.decode 18 0x80) := by decide

/-- ENCODE INT_MASK0, 0xA5. -/
theorem test_decode_encode : decode 0b10100101_000000000000000_01111_1001 = .ok (.encode 15 0xA5) := by decide

/-- ADDRESS_OF #31. -/
theorem test_decode_address_of : decode 0b00000000_000000000000000_11111_1010 = .ok (.addressOf 31) := by decide

/-- GET_FIELD INT_REPORT0.7, 0x80: `DATA | 0 | FVAL 0 | 0 | FLD 111 | REG 01100 | OP 1011`. -/
theorem test_decode_get_field : decode 0b10000000_00_000000_0000_111_01100_1011 = .ok (.getField 12 7 0x80) := by decide

/-- SET_FIELD #9.5 = 0b101011, 0x03. -/
theorem test_decode_set_field :
    decode 0b00000011_00_101011_0000_101_01001_1100 = .ok (.setField 9 5 0b101011 0x03) := by decide

/-- The ten words of spec/opcode_table.json, each its R72 MATCH, decode to the row's command. -/
theorem test_decode_table_words :
    [0x1, 0x2, 0x3, 0x4, 0x5, 0x8, 0x9, 0xA, 0xB, 0xC].map (decodeTableWord 32) =
      [some (.readRaw 0), some (.writeRaw 0 0), some (.readReg 0), some (.writeReg 0 0), some (.editReg 0),
        some (.decode 0 0), some (.encode 0 0), some (.addressOf 0), some (.getField 0 0 0),
        some (.setField 0 0 0 0)] := by decide

/-- V-L2-E1 to V-L2-E6, V-L2-C11, V-L2-C45: words that spell no command, by name. -/
theorem test_decode_rejects :
    decode 0x00000000 = .error .badOpcode ∧ decode 0x00000006 = .error .badOpcode ∧
    decode 0x00000007 = .error .badOpcode ∧ decode 0x0000000D = .error .badOpcode ∧
    decode 0xFFFFFFF0 = .error .badOpcode ∧ decode 0x00001013 = .error .nonzeroRsvd ∧
    decode 0x01000218 = .error .nonzeroRsvd ∧ decode 0x0040001C = .error .nonzeroRsvd := by decide

/-! WellFormed: one ill-formed command for each check, and the well-formed one beside it. -/

theorem test_wellFormed_address :
    (Instr.readRaw 0x0D).wellFormed = false ∧ (Instr.writeRaw 0xD1 0).wellFormed = false ∧
    (Instr.readRaw 0x0C).wellFormed = true ∧ (Instr.writeRaw 0xD0 0).wellFormed = true := by decide

theorem test_wellFormed_type :
    [Instr.readReg 18, .writeReg 18 0, .editReg 31, .decode 18 0, .encode 18 0, .addressOf 31, .getField 18 0 0,
      .setField 18 0 0 0].all (!·.wellFormed) = true ∧
    [Instr.readReg 17, .writeReg 17 0, .editReg 17, .decode 17 0, .encode 17 0, .addressOf 17, .getField 17 0 0,
      .setField 17 0 0 0].all (·.wellFormed) = true := by decide

/-- The read-only types are refused for WRITE_REG, EDIT_REG and SET_FIELD, and for those alone (R31, R121). -/
theorem test_wellFormed_writable :
    [Instr.writeReg 0 0, .editReg 5, .setField 12 0 0 0].all (!·.wellFormed) = true ∧
    [Instr.readReg 0, .decode 5 0, .encode 12 0, .getField 14 0 0].all (·.wellFormed) = true := by decide

/-! The first step after reset, and the assembler. -/

/-- After reset a step takes the word offered and runs it: what the accepting step leaves in the latches. -/
theorem test_first_step_after_reset :
    [0x00020001, 0x55090002, 0x3, 0x25, 0xA].map
      (fun w => after (step (State.reset.withFetchWord 32 w)) latches) =
    [some ⟨.rsel, 1, 0, 0x02, 0, 0⟩, some ⟨.wsel, 2, 0, 0x09, 0x55, 0⟩, some ⟨.rsel, 3, 0, 0x01, 0, 0⟩,
      some ⟨.rsel, 5, 2, 0x03, 0, 0⟩, some ⟨.idle, 0, 0, 0x00, 0, 0⟩] := by decide +kernel

/-- Every word of the opcode table runs as the first command after reset: none is refused and none faults. -/
theorem test_every_table_word_runs :
    [0x1, 0x2, 0x3, 0x4, 0x5, 0x8, 0x9, 0xA, 0xB, 0xC].all
      (fun w => (after (step (State.reset.withFetchWord 32 w)) fun _ => ()).isSome) = true := rfl

/-- R77, R78: a line with a type by number, a binary number and a sequence of two expressions; a number too wide;
R10's grouped number, and `_` elsewhere (log 18). -/
theorem test_assemble_edit :
    assemble "EDIT_REG #8, set(3, 0b1001) ; flip(1)" = some (.editReg 8, some (.seq (.set 3 9) (.flip 1))) ∧
    assemble "READ_RAW 256" = none ∧ numberOf "0b0000_0001" = some 1 ∧ numberOf "1_0" = none ∧
    numberOf "0b_1" = none ∧ numberOf "0b1__0" = none ∧ numberOf "_" = none := by decide +kernel

/-! The catalog commands, one step each. -/

/-- V-L2-C3 and V-L2-C2. -/
theorem test_decode_command :
    after (exec (.decode 1 0xE1) (idleWith 0xE1000018)) seen = ended 0x0000E100 ∧
    after (exec (.decode 1 0x19) (idleWith 0x19000018)) seen = ended 0x00000002 := by decide +kernel

/-- V-L2-C12, V-L2-C14 and V-L2-C15. -/
theorem test_encode_command :
    after (exec (.encode 1 0xE1) (idleWith 0xE1000019)) seen = ended 0x00000100 ∧
    after (exec (.encode 1 0x19) (idleWith 0x19000019)) seen = ended 0x00000083 ∧
    after (exec (.encode 8 0x93) (idleWith 0x93000089)) seen = ended 0x00009300 := by decide +kernel

/-- V-L1-4 (the last row) and V-L2-C18. -/
theorem test_address_of_command :
    after (exec (.addressOf 17) (idleWith 0x0000011A)) seen = ended 0x0000F000 ∧
    after (exec (.addressOf 31) (idleWith 0x000001FA)) seen = ended 0x00000033 := by decide +kernel

/-- V-L2-C26, V-L2-C27 and V-L2-C29. -/
theorem test_get_field_command :
    after (exec (.getField 0 2 0xFC) (idleWith 0xFC00040B)) seen = ended 0x00000300 ∧
    after (exec (.getField 8 3 0x93) (idleWith 0x9300068B)) seen = ended 0x00000900 ∧
    after (exec (.getField 12 7 0x80) (idleWith 0x80000ECB)) seen = ended 0x00000100 := by decide +kernel

/-- V-L2-C23, V-L2-C24 and V-L2-C25. -/
theorem test_get_field_rejects :
    after (exec (.getField 1 3 0x00) (idleWith 0x0000061B)) seen = ended 0x00000063 ∧
    after (exec (.getField 1 4 0x00) (idleWith 0x0000081B)) seen = ended 0x00000063 ∧
    after (exec (.getField 1 1 0x18) (idleWith 0x1800021B)) seen = ended 0x00000083 := by decide +kernel

/-- V-L2-C31, V-L2-C41 and V-L2-C44. -/
theorem test_set_field_command :
    after (exec (.setField 1 0 1 0xE0) (idleWith 0xE001001C)) seen = ended 0x0000E100 ∧
    after (exec (.setField 8 3 4 0x93) (idleWith 0x9304068C)) seen = ended 0x00004300 ∧
    after (exec (.setField 17 7 1 0x00) (idleWith 0x00010F1C)) seen = ended 0x00008000 := by decide +kernel

/-- V-L2-E11, V-L2-E12, V-L2-E14, V-L2-E15 and V-L2-C32: the checks in R154's order. -/
theorem test_set_field_rejects :
    after (exec (.setField 0 3 0 0x00) (idleWith 0x0000060C)) seen = ended 0x00000053 ∧
    after (exec (.setField 8 4 0 0x00) (idleWith 0x0000088C)) seen = ended 0x00000063 ∧
    after (exec (.setField 8 2 1 0xA0) (idleWith 0xA001048C)) seen = ended 0x00000073 ∧
    after (exec (.setField 8 3 12 0xA0) (idleWith 0xA00C068C)) seen = ended 0x00000083 ∧
    after (exec (.setField 1 0 2 0x00) (idleWith 0x0002001C)) seen = ended 0x00000093 := by decide +kernel

/-! The bus commands: the accepting step of each, then single steps of the sequencer. -/

/-- V-L2-R2 and V-L2-R5. -/
theorem test_read_raw_command :
    after (exec (.readRaw 0x10) (idleWith 0x00100001)) latches = some ⟨.rsel, 1, 0, 0x10, 0, 0⟩ ∧
    after (exec (.readRaw 0x0D) (idleWith 0x000D0001)) seen = ended 0x00000043 := by decide +kernel

/-- V-L2-R10 (a read-only register's address, R121) and V-L2-R13. -/
theorem test_write_raw_command :
    after (exec (.writeRaw 0x01 0xFF) (idleWith 0xFF010002)) latches =
      some ⟨.wsel, 2, 0, 0x01, 0xFF, 0⟩ ∧
    after (exec (.writeRaw 0xD1 0x00) (idleWith 0x00D10002)) seen = ended 0x00000043 := by decide +kernel

/-- V-L2-T1's first step and V-L2-E7. -/
theorem test_read_reg_command :
    after (exec (.readReg 1) (idleWith 0x00000013)) latches = some ⟨.rsel, 3, 1, 0x02, 0, 0⟩ ∧
    after (exec (.readReg 18) (idleWith 0x00000123)) seen = ended 0x00000033 := by decide +kernel

/-- V-L2-T6's first step, V-L2-T10, V-L1-5 and V-L2-E10. -/
theorem test_write_reg_command :
    after (exec (.writeReg 1 0xE1) (idleWith 0xE1000014)) latches =
      some ⟨.enc, 4, 1, 0x02, 0, 0xE1⟩ ∧
    after (exec (.writeReg 1 0x19) (idleWith 0x19000014)) seen = ended 0x00000083 ∧
    after (exec (.writeReg 0 0x00) (idleWith 0x00000004)) seen = ended 0x00000053 ∧
    after (exec (.writeReg 20 0x00) (idleWith 0x00000144)) seen = ended 0x00000033 := by decide +kernel

/-- V-L2-T20's first step and V-L1-5. -/
theorem test_edit_reg_command :
    after (exec (.editReg 15) (idleWith 0x000000F5)) latches = some ⟨.rsel, 5, 15, 0xD0, 0, 0⟩ ∧
    after (exec (.editReg 5) (idleWith 0x00000055)) seen = ended 0x00000053 := by decide +kernel

/-- A state of the sequencer under FX, type CHG_CONFIG0, with the byte and the value given. -/
def busy (st : FsmState) (op : Opcode) (d v : Byte) (f : Transform) (ws : List WriteAnswer) (rs : List ReadAnswer) :
    State :=
  { offered 0 Transform.identity ws rs with st := st, op := op, rid := 1, a := 0x02, d := d, v := v, xf := f }

/-- R78: the transform `fn(v) => 0x18` of V-L2-T18, an illegal value of CHG_CONFIG0. -/
def to18 : Transform := Transform.ofFun fun _ => 0x18

/-- V-L2-T1's steps 3 and 4, and V-L2-T13's last: the fetch, the decoded value, and the byte that does not decode. -/
theorem test_step_fetch_and_decode :
    after (step (busy .rfetch 3 0 0 to18 [] [.ok 0x01])) latches = some ⟨.dec, 3, 1, 0x02, 0x01, 0⟩ ∧
    after (step (busy .dec 3 0x01 0 to18 [] [])) seen = ended 0x00000100 ∧
    after (step (busy .dec 5 0x19 0 to18 [] [])) seen = ended 0x00000002 := by decide +kernel

/-- V-L2-T18's last step, and V-L2-T6's second and last. -/
theorem test_step_transform_and_encode :
    after (step (busy .xf 5 0x01 0x01 to18 [] [])) seen = ended 0x000000A3 ∧
    after (step (busy .enc 4 0 0xE1 to18 [] [])) latches = some ⟨.wsel, 4, 1, 0x02, 0x01, 0xE1⟩ ∧
    after (step (busy .wdata 4 0x01 0xE1 to18 [.ok] [])) seen =
      some ⟨.idle, true, 0x00000000, none, [.bw 0x48 0x01 .ok]⟩ := by decide +kernel

/-- V-L1-6: a failed select ends the command, with the error, whichever it is. -/
theorem test_step_select_fails (e : BusError) :
    after (step (busy .rsel 3 0 0 to18 [.err e] [])) seen =
      some ⟨.idle, true, 0x00000001, some e, [.bw 0x48 0x02 (.err e)]⟩ ∧
    after (step (busy .wsel 4 0x01 0x01 to18 [.err e] [])) seen =
      some ⟨.idle, true, 0x00000001, some e, [.bw 0x48 0x02 (.err e)]⟩ := by
  constructor <;> with_unfolding_all rfl

/-- R78 under FX: `flip(0)` and `set(1, 3)` on 0x01 (V-L1-1, V-L2-T19), and expressions that are not well-formed: a flip
of an ENUM, a set of a field without setter, of a code out of range, and of a read-only type. -/
theorem test_denote :
    (denote fx 1 (.flip 0)).map (·.apply 0x01) = some 0x00 ∧
    (denote fx 1 (.set 1 3)).map (·.apply 0x01) = some 0x07 ∧
    denote fx 1 (.flip 1) = none ∧ denote fx 8 (.set 2 1) = none ∧ denote fx 1 (.set 2 3) = none ∧
    denote fx 0 (.flip 0) = none := by decide +kernel

/-! Witnesses: for each statement with hypotheses, states and operands that meet them, clause by clause, at the
boundaries of their ranges. -/

/-- `EncodeOfDecode`. -/
theorem witness_EncodeOfDecode : decode 0xFFFF0002 = .ok (.writeRaw 0xFF 0xFF) := by decide

/-- `WordSpellsByPattern`: the fields of a word, and for each of the ten rows a word with a must-be-zero bit set. -/
theorem witness_WordSpellsByPattern :
    ((0xFF : Byte).toNat = (0x03FF0FFC : Word).toNat / 2 ^ 16 % 2 ^ 8 ∧
      (0x03 : Byte).toNat = (0x03FF0FFC : Word).toNat / 2 ^ 24 % 2 ^ 8 ∧
      (0x1F : BitVec 5).toNat = (0x03FF0FFC : Word).toNat / 2 ^ 4 % 2 ^ 5 ∧
      (0x7 : BitVec 3).toNat = (0x03FF0FFC : Word).toNat / 2 ^ 9 % 2 ^ 3 ∧
      (0x3F : BitVec 6).toNat = (0x03FF0FFC : Word).toNat / 2 ^ 16 % 2 ^ 6) ∧
    ([(0x80000001, 0x1, 0xFF00FFFF), (0x00008002, 0x2, 0x0000FFFF), (0x00000203, 0x3, 0xFFFFFE0F),
      (0x00800004, 0x4, 0x00FFFE0F), (0x80000005, 0x5, 0xFFFFFE0F), (0x00000208, 0x8, 0x00FFFE0F),
      (0x00800009, 0x9, 0x00FFFE0F), (0x0000020A, 0xA, 0xFFFFFE0F), (0x0000100B, 0xB, 0x00FFF00F),
      (0x0080000C, 0xC, 0x00C0F00F)] : List (Word × Nat × Word)).all
        (fun q => q.1.toNat % 16 == q.2.1 && q.1 &&& (q.2.2 - 0xF#32) != 0) = true := by decide

/-- `ReservedOpcodesRejected`: each reserved opcode, other bits 0 or 1, offered in IDLE. -/
theorem witness_ReservedOpcodesRejected :
    (∀ w, (idleWith w).st = .idle ∧ (idleWith w).port = ⟨w, Transform.identity⟩ :: []) ∧
    ([0x0, 0x6, 0x7, 0xD, 0xE, 0xFFFFFFFF] : List Word).map (·.toNat % 16) = [0x0, 0x6, 0x7, 0xD, 0xE, 0xF] :=
  ⟨fun _ => ⟨rfl, rfl⟩, by decide⟩

/-- `EntriesTileTheByte`, `LegalIffEveryCodeLegal`, `ReservedMaskCoversRsvEntries`, `EncodeForcesReservedBits`: a
catalog with neighbouring entries, and a bit of each case: reserved and forced, reserved and passed, not reserved. -/
theorem witness_layout :
    (fx.spec 1).layout[2]? = some fxMode ∧ (fx.spec 1).layout[3]? = some ⟨"rsv", 5, 3, .rsv, false⟩ ∧
    (fx.rsvMask 1).getLsbD 7 = true ∧ (fx.spec 1).pol = .fixed ∧ (fx.rsvMask 8).getLsbD 0 = true ∧
    (fx.spec 8).pol = .pass ∧ (fx.rsvMask 1).getLsbD 4 = false := by decide +kernel

/-- `EncodeKeepsLegality` and `RoundTripLaw`: a value of a FIXED type and one of a PASS type, reserved bits set. -/
theorem witness_RoundTripLaw :
    fx.legal 1 0xE1 = true ∧ fx.decodeByte 1 0xE1 = some 0xE1 ∧ (fx.spec 1).pol = .fixed ∧
    fx.legal 8 0x93 = true ∧ fx.decodeByte 8 0x93 = some 0x93 ∧ (fx.spec 8).pol = .pass := by decide +kernel

/-- `RejectionLaw`: the first code of CHG_CONFIG0's `fx_mode` that is not legal. -/
theorem witness_RejectionLaw :
    (idleWith 0).st = .idle ∧ (1 : BitVec 5).toNat = (1 : RegId).val ∧ fxMode ∈ ((idleWith 0).catalog.spec 1).layout ∧
    fxMode.kind = .enum [0, 1, 2] ∧ (0x19 : Byte).toNat / 2 ^ fxMode.off % 2 ^ fxMode.width ∉ [0, 1, 2] := by
  decide +kernel

/-- `SetFieldReplacesOneEntry`: the highest legal code, another entry, and the code already there. -/
theorem witness_SetFieldReplacesOneEntry :
    fx.legal 8 0x93 = true ∧ (fx.spec 8).layout[3]? = some fxLevel ∧ fxLevel.legalCode (9 : BitVec 6).toNat = true ∧
    (fx.spec 8).layout[2]? = some fxRo ∧
    (0x93 : Byte).toNat / 2 ^ fxLevel.off % 2 ^ fxLevel.width = (9 : BitVec 6).toNat := by decide +kernel

/-- The states of the command statements: IDLE under FX. -/
theorem witness_idle : (idleWith 0).st = .idle ∧ (idleWith 0).catalog = fx := ⟨rfl, rfl⟩

/-- `DecodeCommandAnswers`, `EncodeCommandAnswers`, `AddressOfAnswers`, `ReadRegDecodesTheByte`: the first and the last
REG that name no type, the last that names one, and a legal and an illegal byte of types of both policies. -/
theorem witness_catalog_operands :
    18 ≤ (18 : BitVec 5).toNat ∧ 18 ≤ (31 : BitVec 5).toNat ∧ (17 : BitVec 5).toNat = (17 : RegId).val ∧
    fx.legal 17 0xFF = true ∧ (1 : BitVec 5).toNat = (1 : RegId).val ∧ fx.legal 1 0xE1 = true ∧
    fx.legal 1 0x19 = false ∧ (fx.spec 1).pol = .fixed ∧ (8 : BitVec 5).toNat = (8 : RegId).val ∧
    fx.legal 8 0x93 = true ∧ (fx.spec 8).pol = .pass := by decide +kernel

/-- `GetFieldAnswers`: the first FLD past the entries, a RSV entry, and a getter with a legal and an illegal value. -/
theorem witness_GetFieldAnswers :
    (fx.spec 1).layout.length ≤ (4 : BitVec 3).toNat ∧
    (fx.spec 1).layout[(3 : BitVec 3).toNat]? = some ⟨"rsv", 5, 3, .rsv, false⟩ ∧
    (fx.spec 1).layout[(2 : BitVec 3).toNat]? = some fxMode ∧ fxMode.kind ≠ .rsv ∧
    fx.legal 1 0x18 = false ∧ fx.legal 1 0x10 = true := by decide +kernel

/-- `SetFieldAnswers`: a read-only type, no such entry, a RSV one, one with no setter, an illegal value, the first
illegal value of a BOOL and of an ENUM, and the highest legal ones. -/
theorem witness_SetFieldAnswers :
    regWritable 0 = false ∧ regWritable 8 = true ∧ (fx.spec 8).layout.length ≤ (4 : BitVec 3).toNat ∧
    (fx.spec 8).layout[(0 : BitVec 3).toNat]? = some ⟨"rsv", 0, 2, .rsv, false⟩ ∧
    (fx.spec 8).layout[(2 : BitVec 3).toNat]? = some fxRo ∧ fxRo.kind ≠ .rsv ∧ fxRo.settable = false ∧
    (fx.spec 8).layout[(3 : BitVec 3).toNat]? = some fxLevel ∧ fxLevel.settable = true ∧ fx.legal 8 0xA0 = false ∧
    fx.legal 8 0x93 = true ∧ fxLevel.kind = .enum [0, 1, 2, 3, 4, 5, 6, 7, 8, 9] ∧
    (10 : BitVec 6).toNat ∉ [0, 1, 2, 3, 4, 5, 6, 7, 8, 9] ∧ (9 : BitVec 6).toNat ∈ [0, 1, 2, 3, 4, 5, 6, 7, 8, 9] ∧
    regWritable 1 = true ∧ (fx.spec 1).layout[(0 : BitVec 3).toNat]? = some fxEnabled ∧ fxEnabled.kind = .bool ∧
    fxEnabled.settable = true ∧ 1 < (2 : BitVec 6).toNat ∧ (1 : BitVec 6).toNat ≤ 1 ∧ fx.legal 1 0xE0 = true := by
  decide +kernel

/-- `CatalogCommandsArePure`: two states that differ in all but the catalog, and a command. -/
theorem witness_CatalogCommandsArePure :
    Instr.decode 1 0x19 ∈ [.decode 1 0x19, .encode 1 0x19, .addressOf 1, .getField 1 0 0x19, .setField 1 0 0 0x19] ∧
    (idleWith 0).st = .idle ∧ (idleWith 0).catalog = fx ∧
    (busy .idle 4 0x01 0xE1 to18 [.ok] []).st = .idle ∧ (busy .idle 4 0x01 0xE1 to18 [.ok] []).catalog = fx :=
  ⟨.head _, rfl, rfl, rfl, rfl⟩

/-- `ReadRawReturnsTheByte`, `WriteRawSendsTheByte`: the first and the last address, and answers for the runs. The
conjunct on the accepting step needs no answers: `witness_idle`. -/
theorem witness_raw :
    (offered 0 to18 [.ok, .ok] [.ok 0xFF]).st = .idle ∧ isRegAddress 0x01 = true ∧ isRegAddress 0xF0 = true ∧
    (offered 0 to18 [.ok, .ok] [.ok 0xFF]).writeAnswers = .ok :: [.ok] ∧
    (offered 0 to18 [.ok, .ok] [.ok 0xFF]).writeAnswers = .ok :: .ok :: [] ∧
    (offered 0 to18 [.ok, .ok] [.ok 0xFF]).readAnswers = .ok 0xFF :: [] :=
  ⟨rfl, by decide, by decide, rfl, rfl, rfl⟩

/-- `RawCommandsRefuseOtherAddresses`: the ends of the ranges of R48. -/
theorem witness_RawCommandsRefuseOtherAddresses :
    (idleWith 0).st = .idle ∧
    [0x00, 0x0D, 0x0F, 0x13, 0xCF, 0xD1, 0xDF, 0xE1, 0xEF, 0xF1, 0xFF].all (!isRegAddress ·) = true :=
  ⟨rfl, by decide⟩

/-- `FailedPhaseEndsTheCommand`: a failing answer in each bus state. -/
theorem witness_FailedPhaseEndsTheCommand :
    (busy .rsel 3 0 0 to18 [.err .first] []).st = .rsel ∧ (busy .wsel 4 0 0 to18 [.err .first] []).st = .wsel ∧
    (busy .wdata 4 0 0 to18 [.err .first] []).st = .wdata ∧
    (busy .wdata 4 0 0 to18 [.err .first] []).writeAnswers = .err .first :: [] ∧
    (busy .rfetch 5 0 0 to18 [] [.err .first]).st = .rfetch ∧
    (busy .rfetch 5 0 0 to18 [] [.err .first]).readAnswers = .err .first :: [] := ⟨rfl, rfl, rfl, rfl, rfl, rfl⟩

/-- `ReadRegDecodesTheByte`: a read-only type, with a byte that decodes and one that does not (V-L2-C6, V-L2-T3). -/
theorem witness_ReadRegDecodesTheByte :
    (offered 0 to18 [.ok] [.ok 0xF4]).st = .idle ∧ (0 : BitVec 5).toNat = (0 : RegId).val ∧
    (offered 0 to18 [.ok] [.ok 0xF4]).writeAnswers = .ok :: [] ∧
    (offered 0 to18 [.ok] [.ok 0xF4]).readAnswers = .ok 0xF4 :: [] ∧ fx.legal 0 0xF4 = true ∧
    fx.legal 0 0x08 = false := by decide +kernel

/-- `WriteRegSendsTheEncoding` (V-L2-T6), and the refusals of `TypedWritesRefusedBeforeTheBus`. -/
theorem witness_WriteReg :
    (offered 0 to18 [.ok, .ok] []).st = .idle ∧ (1 : BitVec 5).toNat = (1 : RegId).val ∧ regWritable 1 = true ∧
    (offered 0 to18 [.ok, .ok] []).catalog.legal 1 0xE1 = true ∧
    (offered 0 to18 [.ok, .ok] []).writeAnswers = .ok :: .ok :: [] ∧ 18 ≤ (18 : BitVec 5).toNat ∧
    (14 : BitVec 5).toNat = (14 : RegId).val ∧ regWritable 14 = false ∧
    (offered 0 to18 [.ok, .ok] []).catalog.legal 1 0x19 = false := by decide +kernel

/-- The transform of V-L2-T19, `set(1, 3)`. -/
def setAc : Transform :=
  Transform.ofFun fun v => (⟨"ac_input_current", 1, 2, .enum [0, 1, 2, 3], true⟩ : Entry).setField v 3

/-- `EditRegWritesTheTransformedByte` (V-L2-T19). -/
theorem witness_EditRegWritesTheTransformedByte :
    (offered 0x15 setAc [.ok, .ok, .ok] [.ok 0x01]).st = .idle ∧
    (offered 0x15 setAc [.ok, .ok, .ok] [.ok 0x01]).port = ⟨0x15, setAc⟩ :: [] ∧ regWritable 1 = true ∧
    (offered 0x15 setAc [.ok, .ok, .ok] [.ok 0x01]).writeAnswers = .ok :: .ok :: .ok :: [] ∧
    (offered 0x15 setAc [.ok, .ok, .ok] [.ok 0x01]).readAnswers = .ok 0x01 :: [] ∧
    fx.legal 1 0x01 = true ∧ fx.legal 1 (setAc.apply 0x01) = true :=
  ⟨rfl, rfl, rfl, rfl, rfl, by decide +kernel, by decide +kernel⟩

/-- `EditRegAbortsBeforeTheWrite` (V-L2-T13, V-L2-T18). -/
theorem witness_EditRegAbortsBeforeTheWrite :
    (busy .rsel 5 0 0 to18 [.ok] [.ok 0x01]).st = .rsel ∧ (busy .rsel 5 0 0 to18 [.ok] [.ok 0x01]).op = 5 ∧
    (busy .rsel 5 0 0 to18 [.ok] [.ok 0x01]).rid = 1 ∧
    (busy .rsel 5 0 0 to18 [.ok] [.ok 0x01]).writeAnswers = .ok :: [] ∧
    (busy .rsel 5 0 0 to18 [.ok] [.ok 0x01]).readAnswers = .ok 0x01 :: [] ∧ fx.legal 1 0x19 = false ∧
    fx.legal 1 0x01 = true ∧ fx.legal 1 (to18.apply 0x01) = false := by decide +kernel

/-- The transform `flip(0)` denotes for CHG_CONFIG0 under FX. -/
def flipEnabled : Transform := Transform.ofFun fun v => fxEnabled.setField v (1 - fxEnabled.fieldVal v)

/-- `EditScenarioFlipsChargerEnabled` (V-L1-1). -/
theorem witness_EditScenarioFlipsChargerEnabled :
    (offered 0x15 flipEnabled [.ok, .ok, .ok] [.ok 0x01]).st = .idle ∧
    denote (offered 0x15 flipEnabled [.ok, .ok, .ok] [.ok 0x01]).catalog 1 (.flip 0) = some flipEnabled ∧
    (offered 0x15 flipEnabled [.ok, .ok, .ok] [.ok 0x01]).port = ⟨0x15, flipEnabled⟩ :: [] ∧
    (offered 0x15 flipEnabled [.ok, .ok, .ok] [.ok 0x01]).writeAnswers = .ok :: .ok :: .ok :: [] ∧
    (offered 0x15 flipEnabled [.ok, .ok, .ok] [.ok 0x01]).readAnswers = .ok 0x01 :: [] :=
  ⟨rfl, by rfl, rfl, rfl, rfl⟩

/-- `TransformExpressionsDenote`: an expression of each kind that denotes a transform under FX, and an IDLE state with a
value of CONTROL0 for the clause on SET_FIELD. -/
theorem witness_TransformExpressionsDenote :
    (denote fx 8 (.set 3 9)).isSome = true ∧ (denote fx 17 (.flip 7)).isSome = true ∧
    (denote fx 1 (.seq (.set 2 2) (.flip 0))).isSome = true ∧ (idleWith 0).st = .idle ∧ (idleWith 0).catalog = fx ∧
    (8 : BitVec 5).toNat = (8 : RegId).val ∧ fx.legal 8 0x93 = true := by decide +kernel

/-- `PlainTransformsNeverIllegal`: an EDIT_REG of CHG_CONFIG0 in XF, with `flip(0)` as its transform. -/
theorem witness_PlainTransformsNeverIllegal :
    plainExpr (.flip 0) = true ∧
    denote (busy .xf 5 0x01 0x01 flipEnabled [] []).catalog 1 (.flip 0) =
      some (busy .xf 5 0x01 0x01 flipEnabled [] []).xf ∧
    (busy .xf 5 0x01 0x01 flipEnabled [] []).rid = 1 ∧ (busy .xf 5 0x01 0x01 flipEnabled [] []).st = .xf ∧
    fx.legal 1 0x01 = true := ⟨by decide, by rfl, rfl, rfl, by decide +kernel⟩

/-- `StepRunsTheCommandOffered` and `IdleWithoutACommand`: a command, a word that spells none, and nothing offered. -/
theorem witness_StepRunsTheCommandOffered :
    (idleWith 0x13).st = .idle ∧ (idleWith 0x13).port = ⟨0x13, Transform.identity⟩ :: [] ∧
    decode 0x13 = .ok (.readReg 1) ∧ decodeTableWord 32 0x13 = some (.readReg 1) ∧ decode 0x06 = .error .badOpcode ∧
    State.reset.st = .idle ∧ State.reset.port = [] := ⟨rfl, rfl, by decide, by decide, by decide, rfl, rfl⟩

/-- `RejectionTouchesOnlyTheResponse`: a step out of IDLE that answers REJECTED. -/
theorem witness_RejectionTouchesOnlyTheResponse :
    (idleWith 0x06).st = .idle ∧ (idleWith 0x06).port ≠ [] ∧
    ∃ t, step (idleWith 0x06) = .next t ∧ t.respValid = true ∧ t.resp.status = .rejected :=
  ⟨rfl, by simp [idleWith, offered], _, rfl, rfl, rfl⟩

/-- `NoWordTakenWhileBusy` and `AtMostOnePhaseAStep`: a busy state that steps. -/
theorem witness_busy_step :
    (busy .enc 4 0 0xE1 to18 [] []).st ≠ .idle ∧ ∃ t, step (busy .enc 4 0 0xE1 to18 [] []) = .next t :=
  ⟨by decide, _, rfl⟩

/-- `SequencerFollowsTheTable`: a state for each row. -/
theorem witness_SequencerFollowsTheTable :
    (busy .rsel 1 0 0 to18 [.ok] []).writeAnswers = .ok :: [] ∧ (busy .rsel 1 0 0 to18 [.ok] []).st = .rsel ∧
    (busy .wsel 2 0 0 to18 [.ok] []).st = .wsel ∧ (busy .wdata 2 0 0 to18 [.ok] []).st = .wdata ∧
    (busy .rfetch 1 0 0 to18 [] [.ok 0xFF]).st = .rfetch ∧
    (busy .rfetch 1 0 0 to18 [] [.ok 0xFF]).readAnswers = .ok 0xFF :: [] ∧
    (busy .rfetch 1 0 0 to18 [] [.ok 0xFF]).op = 1 ∧ (busy .dec 3 0x19 0 to18 [] []).st = .dec ∧
    fx.legal 1 0x19 = false ∧ fx.legal 1 0x01 = true ∧ (busy .dec 5 0x01 0 to18 [] []).op = 5 ∧
    (busy .xf 5 0 0x01 to18 [] []).st = .xf ∧ fx.legal 1 (to18.apply 0x01) = false ∧
    fx.legal 1 (setAc.apply 0x01) = true ∧ (busy .enc 4 0 0xE1 to18 [] []).st = .enc := by decide +kernel

/-- `UnansweredPhaseWaits` (V-L2-R15): a state of each kind with no answer left. -/
theorem witness_UnansweredPhaseWaits :
    (busy .wsel 4 0 0 to18 [] []).st = .wsel ∧ (busy .wsel 4 0 0 to18 [] []).writeAnswers = [] ∧
    (busy .rfetch 1 0 0 to18 [] []).st = .rfetch ∧ (busy .rfetch 1 0 0 to18 [] []).readAnswers = [] :=
  ⟨rfl, rfl, rfl, rfl⟩

/-- `CatalogConstantsNeverWritten`: a command that runs. -/
theorem witness_CatalogConstantsNeverWritten : ∃ t, exec (.addressOf 1) (idleWith 0x1A) = .next t := ⟨_, rfl⟩

/-- An EDIT_REG of CHG_CONFIG0 about to select meets the invariant: `InvariantKept`, `NoStopUnderInvariant` and, with
its answers, `EveryCommandReturnsToIdle`. -/
theorem witness_Inv_busy :
    Inv (busy .rsel 5 0 0 setAc [.ok, .ok, .ok] [.ok 0x01]) ∧
    (∃ t, step (busy .rsel 5 0 0 setAc [.ok, .ok, .ok] [.ok 0x01]) = .next t) ∧
    (busy .rsel 5 0 0 setAc [.ok, .ok, .ok] [.ok 0x01]).st ≠ .idle ∧
    3 ≤ (busy .rsel 5 0 0 setAc [.ok, .ok, .ok] [.ok 0x01]).writeAnswers.length ∧
    1 ≤ (busy .rsel 5 0 0 setAc [.ok, .ok, .ok] [.ok 0x01]).readAnswers.length :=
  ⟨⟨fun _ => rfl, rfl, .inr ⟨.inr ⟨rfl, by decide⟩, rfl⟩, rfl⟩, ⟨_, rfl⟩, by decide, by decide, by decide⟩

/-- A WRITE_REG about to send its byte, its select in the trace, meets the invariant. -/
theorem witness_Inv_wdata :
    Inv { busy .wdata 4 0x01 0xE1 setAc [.ok] [] with trace := [.bw 0x48 0x02 .ok] } :=
  ⟨fun _ => rfl, rfl,
    .inr ⟨.inl rfl, by decide, rfl, (by decide +kernel : fx.legal 1 0xE1 = true),
      (by decide +kernel : (0x01 : Byte) = fx.encodeByte 1 0xE1)⟩, by decide +kernel⟩

/-- `StaleLatchesNeverObserved`: two states in WSEL that differ in `op`, `rid`, `v`, `xf` and the stale response. -/
theorem witness_StaleLatchesNeverObserved :
    LiveAgree (busy .wsel 4 0x01 0xE1 to18 [.ok] [])
      { busy .wsel 2 0x01 0x55 setAc [.ok] [] with rid := 8, resp := .unexpected } :=
  ⟨⟨rfl, rfl, rfl, rfl, rfl⟩, rfl, rfl, rfl, rfl⟩

/-- `NoErrorPoisonsTheNextCommand`: IDLE after a transport error and IDLE after a success, the same word offered. -/
theorem witness_NoErrorPoisonsTheNextCommand :
    (busy .idle 3 0 0 to18 [.ok] []).st = .idle ∧
    SameOutside { busy .idle 3 0 0 to18 [.ok] [] with resp := .transportError .first, respValid := true }
      { busy .idle 4 0x01 0xE1 to18 [.ok] [] with resp := .okay 0, respValid := true } ∧
    (busy .idle 3 0 0 to18 [.ok] []).port ≠ [] :=
  ⟨rfl, ⟨rfl, rfl, rfl, rfl, rfl⟩, by simp [busy, offered]⟩

/-- `IllFormedCommandsRefused`: an IDLE state, and commands of both kinds. -/
theorem witness_IllFormedCommandsRefused :
    (idleWith 0).st = .idle ∧ (Instr.readReg 18).wellFormed = false ∧ (Instr.readReg 17).wellFormed = true :=
  ⟨rfl, by decide, by decide⟩

end Sys2Proof.Tests
end

/-! The state's family: the invariant of every step, the noninterference of stale latches, and the frames of a step. -/

namespace Sys2Proof.Machine

/-! What one step leaves alone, read off the cases of `Accepts` and `Advances`. -/

section
variable {s t : State}

theorem Accepts.trace_eq (h : Accepts s t) : t.trace = s.trace := by cases h <;> rfl

theorem Accepts.catalog_eq (h : Accepts s t) : t.catalog = s.catalog := by cases h <;> rfl

theorem Advances.catalog_eq (h : Advances s t) : t.catalog = s.catalog := by cases h <;> rfl

theorem Advances.port_eq (h : Advances s t) : t.port = s.port := by cases h <;> rfl

theorem step_catalog_eq (h : step s = .next t) : t.catalog = s.catalog := by
  rcases step_next h with ⟨-, ⟨-, rfl⟩ | ⟨-, ha⟩⟩ | ⟨-, ha⟩
  · rfl
  · exact ha.catalog_eq
  · exact ha.catalog_eq

theorem exec_catalog_eq {i : Instr} (h : exec i s = .next t) : t.catalog = s.catalog := by
  by_cases hs : s.st = .idle
  · obtain ⟨u, hu, ha⟩ := exec_accepts i hs
    rw [hu] at h
    cases h
    exact ha.catalog_eq
  · rw [exec_busy i hs] at h
    cases h
    rfl

theorem cmdReady_iff : s.cmdReady = true ↔ s.st = .idle := decide_eq_true_iff

theorem step_busy_port_eq (hs : s.st ≠ .idle) (h : step s = .next t) : t.port = s.port := by
  rcases step_next h with ⟨hi, -⟩ | ⟨-, ha⟩
  · exact absurd hi hs
  · exact ha.port_eq

/-- R46, R115: the phase of a busy step is the one its bus state is there for. -/
theorem Advances.trace_cases (h : Advances s t) :
    t.trace = s.trace ∨
      (s.st = .rfetch ∧ ∃ r, t.trace = s.trace ++ [.br Config.devAddr r]) ∨
      ((s.st = .rsel ∨ s.st = .wsel) ∧ ∃ r, t.trace = s.trace ++ [.bw Config.devAddr s.a r]) ∨
      (s.st = .wdata ∧ ∃ r, t.trace = s.trace ++ [.bw Config.devAddr s.d r]) := by
  cases h with
  | waits | undecodable | decoded | toTransform | illegalTransform | transformed | encoded => exact .inl rfl
  | fetchFailed hs e => exact .inr (.inl ⟨hs, _, rfl⟩)
  | fetchedRaw hs _ b => exact .inr (.inl ⟨hs, _, rfl⟩)
  | fetched hs _ b => exact .inr (.inl ⟨hs, _, rfl⟩)
  | selectFailed hs e => exact .inr (.inr (.inl ⟨hs, _, rfl⟩))
  | readSelected hs => exact .inr (.inr (.inl ⟨.inl hs, _, rfl⟩))
  | writeSelected hs => exact .inr (.inr (.inl ⟨.inr hs, _, rfl⟩))
  | dataFailed hs e => exact .inr (.inr (.inr ⟨hs, _, rfl⟩))
  | dataWritten hs => exact .inr (.inr (.inr ⟨hs, _, rfl⟩))

end

/-! The invariant: what it gives in each state, and that each part of it is kept. -/

section
variable {s t : State}

/-- R47: the address of a type is in the closed set. -/
theorem isRegAddress_regAddress (r : RegId) : isRegAddress (regAddress r) = true :=
  List.contains_iff_mem.mpr (List.mem_map_of_mem (List.mem_finRange r))

theorem ReadSide.isRegAddress (h : ReadSide s) : isRegAddress s.a = true := by
  rcases h with ⟨-, ha⟩ | ⟨-, ha⟩
  · exact ha
  · rw [ha]
    exact isRegAddress_regAddress _

theorem WriteSide.isRegAddress (h : WriteSide s) : isRegAddress s.a = true := by
  rcases h with ⟨-, ha⟩ | ⟨-, -, ha, -⟩
  · exact ha
  · rw [ha]
    exact isRegAddress_regAddress _

theorem Inv.readSide (hi : Inv s) (h : s.st = .rsel ∨ s.st = .rfetch) : ReadSide s := by
  rcases h with h | h <;> simpa only [LatchesOk, h] using hi.latches

theorem Inv.writeSide (hi : Inv s) (h : s.st = .wsel ∨ s.st = .wdata) : WriteSide s := by
  rcases h with h | h <;> simpa only [LatchesOk, h] using hi.latches

theorem Inv.decLatches (hi : Inv s) (h : s.st = .dec) :
    (s.op = .readReg ∨ s.op = .editReg ∧ regWritable s.rid = true) ∧ s.a = regAddress s.rid := by
  simpa only [LatchesOk, h] using hi.latches

theorem Inv.xfLatches (hi : Inv s) (h : s.st = .xf) :
    s.op = .editReg ∧ regWritable s.rid = true ∧ s.a = regAddress s.rid ∧ s.catalog.legal s.rid s.v = true := by
  simpa only [LatchesOk, h] using hi.latches

theorem Inv.encLatches (hi : Inv s) (h : s.st = .enc) :
    (s.op = .writeReg ∨ s.op = .editReg) ∧ regWritable s.rid = true ∧ s.a = regAddress s.rid ∧
      s.catalog.legal s.rid s.v = true := by
  simpa only [LatchesOk, h] using hi.latches

theorem Inv.selectAddress (hi : Inv s) (h : s.st = .rsel ∨ s.st = .wsel) : isRegAddress s.a = true := by
  rcases h with h | h
  · exact (hi.readSide (.inl h)).isRegAddress
  · exact (hi.writeSide (.inl h)).isRegAddress

/-- R117: a select is outstanding where a data phase is due. -/
theorem Inv.selected (hi : Inv s) (h : s.st = .rfetch ∨ s.st = .wdata) :
    outstandingSelect s.trace = some (some s.a) := by
  rw [hi.bus, if_pos h]

/-- R117: and nowhere else. -/
theorem Inv.notSelected (hi : Inv s) (h : ¬(s.st = .rfetch ∨ s.st = .wdata)) :
    outstandingSelect s.trace = some none := by
  rw [hi.bus, if_neg h]

/-! Each phase a step makes, as `selectAfter` reads it (R115, R117, R123). -/

@[simp] theorem selectAfter_select_ok {a : Byte} (h : isRegAddress a = true) :
    selectAfter (some none) (.bw Config.devAddr a .ok) = some (some a) := by simp [selectAfter, h]

@[simp] theorem selectAfter_select_err {a : Byte} (h : isRegAddress a = true) (e : BusError) :
    selectAfter (some none) (.bw Config.devAddr a (.err e)) = some none := by simp [selectAfter, h]

@[simp] theorem selectAfter_dataRead (a : Byte) (r : ReadAnswer) :
    selectAfter (some (some a)) (.br Config.devAddr r) = some none := rfl

@[simp] theorem selectAfter_dataWrite (a b : Byte) (r : WriteAnswer) :
    selectAfter (some (some a)) (.bw Config.devAddr b r) = some none := rfl

/-- R28: a step out of a state of the invariant that writes a consistent response in IDLE, or leaves the response alone
and not valid, keeps the invariant's part on the response. -/
theorem Inv.of_response (hi : Inv s)
    (hr : (t.st = .idle ∧ t.resp.consistent = true) ∨ (t.respValid = false ∧ t.resp = s.resp)) (hl : LatchesOk t)
    (hb : outstandingSelect t.trace = some (if t.st = .rfetch ∨ t.st = .wdata then some t.a else none)) : Inv t := by
  rcases hr with ⟨hidle, hc⟩ | ⟨hv, hresp⟩
  · exact ⟨fun hn => absurd hidle hn, hc, hl, hb⟩
  · exact ⟨fun _ => hv, hresp ▸ hi.resp, hl, hb⟩

/-! An accepting step. -/

theorem Accepts.response_cases (h : Accepts s t) :
    (t.st = .idle ∧ t.resp.consistent = true) ∨ (t.respValid = false ∧ t.resp = s.resp) := by
  cases h with
  | rejected => exact .inl ⟨rfl, rfl⟩
  | answered _ hc => exact .inl ⟨rfl, hc⟩
  | readRaw | writeRaw | readReg | writeReg | editReg => exact .inr ⟨rfl, rfl⟩

theorem Accepts.latchesOk (h : Accepts s t) : LatchesOk t := by
  cases h with
  | rejected | answered => trivial
  | readRaw _ ha => exact .inl ⟨rfl, ha⟩
  | writeRaw _ _ ha => exact .inl ⟨rfl, ha⟩
  | readReg => exact .inr ⟨.inl rfl, rfl⟩
  | writeReg _ _ hw hv => exact ⟨.inl rfl, hw, rfl, hv⟩
  | editReg _ hw => exact .inr ⟨.inr ⟨rfl, hw⟩, rfl⟩

/-- R140: no command starts with a data phase. -/
theorem Accepts.noDataPhaseDue (h : Accepts s t) : ¬(t.st = .rfetch ∨ t.st = .wdata) := by cases h <;> simp

theorem Inv.accepts (hi : Inv s) (hs : s.st = .idle) (h : Accepts s t) : Inv t :=
  hi.of_response h.response_cases h.latchesOk <| by
    rw [if_neg h.noDataPhaseDue, h.trace_eq, hi.notSelected (by simp [hs])]

/-! A step of a running command. -/

theorem Advances.response_cases (h : Advances s t) :
    (t.st = .idle ∧ t.resp.consistent = true) ∨ (t.respValid = s.respValid ∧ t.resp = s.resp) := by
  cases h with
  | selectFailed | fetchFailed | fetchedRaw | undecodable | decoded | illegalTransform | dataFailed | dataWritten =>
    exact .inl ⟨rfl, rfl⟩
  | waits | readSelected | fetched | toTransform | transformed | encoded | writeSelected => exact .inr ⟨rfl, rfl⟩

/-- R24, R39: each row of R140's table leaves the latches as the state it goes to needs them. -/
theorem Inv.advances_latchesOk (hi : Inv s) (h : Advances s t) : LatchesOk t := by
  cases h with
  | selectFailed | fetchFailed | fetchedRaw | undecodable | decoded | illegalTransform | dataFailed | dataWritten =>
    trivial
  | waits => exact hi.latches
  | readSelected hs => exact hi.readSide (.inl hs)
  | fetched hs ho b =>
    rcases hi.readSide (.inr hs) with ⟨hraw, -⟩ | hl
    · simp [hraw] at ho
    · exact hl
  | toTransform hs ho hl =>
    obtain ⟨hread | ⟨-, hw⟩, ha⟩ := hi.decLatches hs
    · simp [hread] at ho
    · exact ⟨ho, hw, ha, hl⟩
  | transformed hs hl =>
    obtain ⟨ho, hw, ha, -⟩ := hi.xfLatches hs
    exact ⟨.inr ho, hw, ha, hl⟩
  | encoded hs =>
    obtain ⟨ho, hw, ha, hv⟩ := hi.encLatches hs
    exact .inr ⟨ho, hw, ha, hv, rfl⟩
  | writeSelected hs => exact hi.writeSide (.inl hs)

/-- R117, R123: a select goes out with none outstanding, and a data phase uses up its own. -/
theorem Inv.advances_bus (hi : Inv s) (h : Advances s t) :
    outstandingSelect t.trace = some (if t.st = .rfetch ∨ t.st = .wdata then some t.a else none) := by
  cases h with
  | waits => exact hi.bus
  | undecodable hs | decoded hs | toTransform hs | illegalTransform hs | transformed hs | encoded hs =>
    simpa using hi.notSelected (by simp [hs])
  | selectFailed hs e =>
    have hn := hi.notSelected (by rcases hs with hs | hs <;> simp [hs])
    simp [outstandingSelect_append, hn, hi.selectAddress hs]
  | readSelected hs =>
    simp [outstandingSelect_append, hi.notSelected (by simp [hs]), hi.selectAddress (.inl hs)]
  | writeSelected hs =>
    simp [outstandingSelect_append, hi.notSelected (by simp [hs]), hi.selectAddress (.inr hs)]
  | fetchFailed hs | fetchedRaw hs | fetched hs =>
    simp [outstandingSelect_append, hi.selected (.inl hs)]
  | dataFailed hs | dataWritten hs => simp [outstandingSelect_append, hi.selected (.inr hs)]

theorem Inv.advances (hi : Inv s) (hs : s.st ≠ .idle) (h : Advances s t) : Inv t :=
  hi.of_response (hi.busy hs ▸ h.response_cases) (hi.advances_latchesOk h) (hi.advances_bus h)

theorem step_keeps_inv (hi : Inv s) (h : step s = .next t) : Inv t := by
  rcases step_next h with ⟨hs, ⟨-, rfl⟩ | ⟨-, ha⟩⟩ | ⟨hs, ha⟩
  · exact hi
  · exact hi.accepts hs ha
  · exact hi.advances hs ha

theorem inv_reset : Inv State.reset where
  busy h := absurd rfl h
  resp := rfl
  latches := trivial
  bus := rfl

end

/-! Noninterference: two runs side by side. -/

/-- Two answers of a step that an observer cannot tell apart: next states that agree on all that is live, or the same
stop. -/
inductive OutcomesAgree : StepResult → StepResult → Prop where
  | next {s t : State} (h : LiveAgree s t) : OutcomesAgree (.next s) (.next t)
  | fault (f : Fault) : OutcomesAgree (.fault f) (.fault f)
  | refused (f : Refusal) : OutcomesAgree (.refused f) (.refused f)

section
variable {s t : State}

/-! The state's operations keep the outside of two states the same. -/

theorem SameOutside.takeWord (h : SameOutside s t) : SameOutside s.takeWord t.takeWord := by
  obtain ⟨htrace, hcat, hport, hws, hrs⟩ := h
  exact ⟨htrace, hcat, congrArg List.tail hport, hws, hrs⟩

theorem SameOutside.didWrite (h : SameOutside s t) (b : Byte) (r : WriteAnswer) :
    SameOutside (s.didWrite b r) (t.didWrite b r) := by
  obtain ⟨htrace, hcat, hport, hws, hrs⟩ := h
  exact ⟨congrArg (· ++ _) htrace, hcat, hport, congrArg List.tail hws, hrs⟩

theorem SameOutside.didRead (h : SameOutside s t) (r : ReadAnswer) : SameOutside (s.didRead r) (t.didRead r) := by
  obtain ⟨htrace, hcat, hport, hws, hrs⟩ := h
  exact ⟨congrArg (· ++ _) htrace, hcat, hport, hws, congrArg List.tail hrs⟩

theorem SameOutside.catalog_eq (h : SameOutside s t) : s.catalog = t.catalog := h.2.1

theorem SameOutside.port_eq (h : SameOutside s t) : s.port = t.port := h.2.2.1

theorem SameOutside.offeredXf_eq (h : SameOutside s t) : s.offeredXf = t.offeredXf := by
  simp only [State.offeredXf, h.port_eq]

/-- A command that ends writes the whole response, and IDLE reads no latch. -/
theorem SameOutside.finish (h : SameOutside s t) (r : Resp) : LiveAgree (s.finish r) (t.finish r) :=
  ⟨h, rfl, rfl, trivial⟩

/-! Branching, the two bus primitives and the accepting step. -/

/-- A branch on a condition that both sides share. -/
theorem ite_agree {α : Type} {R : α → α → Prop} {c c' : Prop} [Decidable c] [Decidable c'] {x y x' y' : α}
    (hc : c ↔ c') (hx : c → R x x') (hy : ¬c → R y y') : R (if c then x else y) (if c' then x' else y') := by
  by_cases h : c
  · rw [if_pos h, if_pos (hc.mp h)]
    exact hx h
  · rw [if_neg h, if_neg (mt hc.mpr h)]
    exact hy h

theorem busWrite_agree {b : Byte} {k k' : WriteAnswer → State → StepResult} (h : LiveAgree s t)
    (hk : ∀ r, OutcomesAgree (k r (s.didWrite b r)) (k' r (t.didWrite b r))) :
    OutcomesAgree (busWrite s b k) (busWrite t b k') := by
  obtain ⟨-, -, -, hws, -⟩ := h.outside
  cases hs : s.writeAnswers with
  | nil =>
    rw [busWrite_unanswered hs, busWrite_unanswered (hws ▸ hs)]
    exact .next h
  | cons r ws =>
    rw [busWrite_answered hs, busWrite_answered (hws ▸ hs)]
    exact hk r

theorem busRead_agree {k k' : ReadAnswer → State → StepResult} (h : LiveAgree s t)
    (hk : ∀ r, OutcomesAgree (k r (s.didRead r)) (k' r (t.didRead r))) :
    OutcomesAgree (busRead s k) (busRead t k') := by
  obtain ⟨-, -, -, -, hrs⟩ := h.outside
  cases hs : s.readAnswers with
  | nil =>
    rw [busRead_unanswered hs, busRead_unanswered (hrs ▸ hs)]
    exact .next h
  | cons r rs =>
    rw [busRead_answered hs, busRead_answered (hrs ▸ hs)]
    exact hk r

/-- In IDLE the same checks answer the same rejection, or let the command run on both sides. -/
theorem accept_agree {α : Type} {checks : Except Reason α} {run run' : α → State → State} (h : SameOutside s t)
    (hs : s.st = .idle) (ht : t.st = .idle) (hrun : ∀ x, LiveAgree (run x s.takeWord) (run' x t.takeWord)) :
    OutcomesAgree (accept s checks run) (accept t checks run') := by
  cases hc : checks with
  | error r =>
    rw [accept_rejected hs rfl, accept_rejected ht rfl]
    exact .next (h.takeWord.finish _)
  | ok x =>
    rw [accept_ok hs rfl, accept_ok ht rfl]
    exact .next (hrun x)

/-- R143: what a command does in its accepting step reads no latch and no response: it writes the latches its first
state needs. -/
theorem exec_agree (i : Instr) (h : SameOutside s t) (hs : s.st = .idle) (ht : t.st = .idle) :
    OutcomesAgree (exec i s) (exec i t) := by
  cases i <;> simp only [exec, execReadRaw, execWriteRaw, execReadReg, execWriteReg, execEditReg, execDecode,
    execEncode, execAddressOf, execGetField, execSetField, h.catalog_eq, h.offeredXf_eq] <;>
    refine accept_agree h hs ht fun x => ?_
  case readRaw => exact ⟨h.takeWord, rfl, rfl, rfl, rfl, fun hn => absurd rfl hn, fun he => by cases he⟩
  case writeRaw => exact ⟨h.takeWord, rfl, rfl, rfl, rfl⟩
  case readReg => exact ⟨h.takeWord, rfl, rfl, rfl, rfl, fun _ => rfl, fun he => by cases he⟩
  case writeReg => exact ⟨h.takeWord, rfl, rfl, rfl, rfl, rfl⟩
  case editReg => exact ⟨h.takeWord, rfl, rfl, rfl, rfl, fun _ => rfl, fun _ => rfl⟩
  case decode =>
    rw [State.takeWord_catalog, State.takeWord_catalog, h.catalog_eq]
    split <;> exact h.takeWord.finish _
  case encode =>
    rw [State.takeWord_catalog, State.takeWord_catalog, h.catalog_eq]
    exact h.takeWord.finish _
  case addressOf | getField | setField => exact h.takeWord.finish _

/-! A step out of each state. -/

theorem stepIdle_agree (h : LiveAgree s t) (hs : s.st = .idle) : OutcomesAgree (stepIdle s) (stepIdle t) := by
  have ht : t.st = .idle := h.st ▸ hs
  unfold stepIdle
  rw [← h.outside.port_eq]
  split
  · exact .next h
  · split
    · exact .next (h.outside.takeWord.finish _)
    · exact exec_agree _ h.outside hs ht

theorem stepRsel_agree (h : LiveAgree s t) (hs : s.st = .rsel) : OutcomesAgree (stepRsel s) (stepRsel t) := by
  have hl := h.latches
  simp only [LiveLatches, hs] at hl
  unfold stepRsel
  rw [← hl.2.1]
  refine busWrite_agree h fun r => ?_
  cases r with
  | err e => exact .next ((h.outside.didWrite _ _).finish _)
  | ok => exact .next ⟨h.outside.didWrite _ _, rfl, h.response, hl⟩

theorem stepRfetch_agree (h : LiveAgree s t) (hs : s.st = .rfetch) : OutcomesAgree (stepRfetch s) (stepRfetch t) := by
  have hl := h.latches
  simp only [LiveLatches, hs] at hl
  obtain ⟨hop, ha, hrid, hxf⟩ := hl
  refine busRead_agree h fun r => ?_
  cases r with
  | err e => exact .next ((h.outside.didRead _).finish _)
  | ok b =>
    refine ite_agree (by simp [hop]) (fun _ => ?_) fun hraw => ite_agree (by simp [hop]) (fun _ => ?_) fun _ => .fault _
    · exact .next ⟨h.outside.didRead _, rfl, rfl, trivial⟩
    · exact .next ⟨h.outside.didRead _, rfl, h.response, hop, ha, hrid hraw, rfl, hxf⟩

theorem stepDec_agree (h : LiveAgree s t) (hs : s.st = .dec) : OutcomesAgree (stepDec s) (stepDec t) := by
  have hl := h.latches
  simp only [LiveLatches, hs] at hl
  obtain ⟨hop, ha, hrid, hd, hxf⟩ := hl
  have hdec : s.catalog.decodeByte s.rid s.d = t.catalog.decodeByte t.rid t.d := by
    rw [h.outside.catalog_eq, hrid, hd]
  unfold stepDec
  rw [← hdec]
  split
  · exact .next (h.outside.finish _)
  · refine ite_agree (by rw [hop]) (fun _ => ?_) fun _ => ite_agree (by rw [hop]) (fun ho => ?_) fun _ => .fault _
    · exact .next ⟨h.outside, rfl, rfl, trivial⟩
    · exact .next ⟨h.outside, rfl, h.response, ha, hrid, rfl, hxf ho⟩

theorem stepXf_agree (h : LiveAgree s t) (hs : s.st = .xf) : OutcomesAgree (stepXf s) (stepXf t) := by
  have hl := h.latches
  simp only [LiveLatches, hs] at hl
  obtain ⟨ha, hrid, hv, hxf⟩ := hl
  have hw : s.xf.apply s.v = t.xf.apply t.v := by rw [hxf, hv]
  refine .next (ite_agree (by rw [h.outside.catalog_eq, hrid, hw]) (fun _ => ?_) fun _ => ?_)
  · exact ⟨h.outside, rfl, h.response, ha, hrid, hw⟩
  · exact h.outside.finish _

theorem stepEnc_agree (h : LiveAgree s t) (hs : s.st = .enc) : OutcomesAgree (stepEnc s) (stepEnc t) := by
  have hl := h.latches
  simp only [LiveLatches, hs] at hl
  obtain ⟨ha, hrid, hv⟩ := hl
  have hd : s.catalog.encodeByte s.rid s.v = t.catalog.encodeByte t.rid t.v := by
    rw [h.outside.catalog_eq, hrid, hv]
  exact .next ⟨h.outside, rfl, h.response, ha, hd⟩

theorem stepWsel_agree (h : LiveAgree s t) (hs : s.st = .wsel) : OutcomesAgree (stepWsel s) (stepWsel t) := by
  have hl := h.latches
  simp only [LiveLatches, hs] at hl
  obtain ⟨ha, hd⟩ := hl
  unfold stepWsel
  rw [← ha]
  refine busWrite_agree h fun r => ?_
  cases r with
  | err e => exact .next ((h.outside.didWrite _ _).finish _)
  | ok => exact .next ⟨h.outside.didWrite _ _, rfl, h.response, hd⟩

theorem stepWdata_agree (h : LiveAgree s t) (hs : s.st = .wdata) : OutcomesAgree (stepWdata s) (stepWdata t) := by
  have hd := h.latches
  simp only [LiveLatches, hs] at hd
  unfold stepWdata
  rw [← hd]
  refine busWrite_agree h fun r => ?_
  cases r with
  | err e => exact .next ((h.outside.didWrite _ _).finish _)
  | ok => exact .next ((h.outside.didWrite _ _).finish _)

theorem step_agree (h : LiveAgree s t) : OutcomesAgree (step s) (step t) := by
  have hst := h.st.symm
  cases hs : s.st <;> rw [hs] at hst
  case idle => rw [step_idle hs, step_idle hst]; exact stepIdle_agree h hs
  case rsel => rw [step_rsel hs, step_rsel hst]; exact stepRsel_agree h hs
  case rfetch => rw [step_rfetch hs, step_rfetch hst]; exact stepRfetch_agree h hs
  case dec => rw [step_dec hs, step_dec hst]; exact stepDec_agree h hs
  case xf => rw [step_xf hs, step_xf hst]; exact stepXf_agree h hs
  case enc => rw [step_enc hs, step_enc hst]; exact stepEnc_agree h hs
  case wsel => rw [step_wsel hs, step_wsel hst]; exact stepWsel_agree h hs
  case wdata => rw [step_wdata hs, step_wdata hst]; exact stepWdata_agree h hs

end

/-! The obligations. -/

/-- Settles O47: an accepting step sets up the latches of the command's first state, and each row of R140's table keeps
the invariant. -/
theorem invariantKept : Obligations.InvariantKept := fun _ _ hi h => step_keeps_inv hi h

/-- Settles O50: the two steps go side by side; each branches only on latches that are live. -/
theorem staleLatchesNeverObserved : Obligations.StaleLatchesNeverObserved := by
  intro s t h
  have ha := step_agree h
  generalize step s = x, step t = y at ha ⊢
  cases ha with
  | next h => exact h
  | fault => rfl
  | refused => rfl

/-- Settles O39: `exec` answers the same state while busy, and no row of R140's table touches the port. -/
theorem noWordTakenWhileBusy : Obligations.NoWordTakenWhileBusy := fun _ =>
  ⟨cmdReady_iff, fun hs => ⟨fun i => exec_busy i hs, fun _ h => step_busy_port_eq hs h⟩⟩

/-- Settles O42: an idle step makes no phase; a busy one at most the phase of its state. -/
theorem atMostOnePhaseAStep : Obligations.AtMostOnePhaseAStep := by
  intro s t h
  rcases step_next h with ⟨-, ⟨-, rfl⟩ | ⟨-, ha⟩⟩ | ⟨-, ha⟩
  · exact .inl rfl
  · exact .inl ha.trace_eq
  · exact ha.trace_cases

/-- Settles O43: no case of `Accepts` or `Advances` writes the catalog. -/
theorem catalogConstantsNeverWritten : Obligations.CatalogConstantsNeverWritten :=
  ⟨fun _ _ _ h => exec_catalog_eq h, fun _ _ h => step_catalog_eq h⟩

/-- Settles O6: R30's table, row by row. -/
theorem registerTypeTable : Obligations.RegisterTypeTable := by
  unfold Obligations.RegisterTypeTable
  decide

/-- Settles O35: R38's values are those `State.reset` is built with. -/
theorem resetStateAsGiven : Obligations.ResetStateAsGiven :=
  ⟨rfl, rfl, rfl, rfl, rfl⟩

/-- Settles O46: IDLE asks nothing of the latches, and the empty trace has no select outstanding. -/
theorem invariantAtReset : Obligations.InvariantAtReset := inv_reset

end Sys2Proof.Machine

/-! The memory family: the closed register set, and what a raw command does with an address outside it. -/

namespace Sys2Proof.Machine

/-- R47: the closed set holds the addresses of the types and no other byte. -/
theorem isRegAddress_iff {a : Byte} : isRegAddress a = true ↔ ∃ r : RegId, regAddress r = a := by
  simp [isRegAddress, addressSet]

/-- R49: no two types share an address. -/
theorem regAddress_injective : Function.Injective regAddress := by decide

/-- R47: the addresses as numbers, in id order. -/
theorem addressSet_toNat : addressSet.map BitVec.toNat =
    [0x01, 0x02, 0x03, 0x04, 0x05, 0x06, 0x07, 0x08, 0x09, 0x0A, 0x0B, 0x0C, 0x10, 0x11, 0x12, 0xD0, 0xE0, 0xF0] := by
  decide

theorem isRegAddress_iff_toNat_mem {a : Byte} :
    isRegAddress a = true ↔ a.toNat ∈ addressSet.map BitVec.toNat := by
  rw [isRegAddress, List.contains_iff_mem, List.mem_map_of_injective fun _ _ => BitVec.eq_of_toNat_eq]

/-- R47: the closed set as ranges; R48's ranges are the gaps between these. -/
theorem isRegAddress_iff_ranges {a : Byte} : isRegAddress a = true ↔
    (0x01 ≤ a.toNat ∧ a.toNat ≤ 0x0C) ∨ (0x10 ≤ a.toNat ∧ a.toNat ≤ 0x12) ∨
    a.toNat = 0xD0 ∨ a.toNat = 0xE0 ∨ a.toNat = 0xF0 := by
  simp only [isRegAddress_iff_toNat_mem, addressSet_toNat, List.mem_cons, List.not_mem_nil, or_false]
  omega

/-- R116: READ_RAW has one check, that of its ADDR. -/
theorem exec_readRaw (a : Byte) (s : State) : exec (.readRaw a) s =
    accept s (rawAddress a) fun a t => { t.start .readRaw .rsel with a := a } := rfl

/-- R120: WRITE_RAW has the same one check. -/
theorem exec_writeRaw (a d : Byte) (s : State) : exec (.writeRaw a d) s =
    accept s (rawAddress a) fun a t => { t.start .writeRaw .wsel with a := a, d := d } := rfl

/-- R48: the check of a raw command's ADDR fails on a byte outside the closed set. -/
theorem rawAddress_error {a : Byte} (h : isRegAddress a = false) : rawAddress a = .error .badAddr := by
  simp [rawAddress, h]

/-- R155: a command that ends in its accepting step takes its word and writes its response, and nothing else. -/
theorem takeWord_finish_of_idle {s : State} (h : s.st = .idle) (r : Resp) :
    s.takeWord.finish r = { s with port := s.port.tail, resp := r, respValid := true } := by
  simp only [State.finish, State.takeWord, h]

/-- R155: the whole next state when a check fails in IDLE. -/
theorem accept_rejected_frame {α : Type} {s : State} {checks : Except Reason α} {run : α → State → State}
    {r : Reason} (h : s.st = .idle) (hc : checks = .error r) :
    accept s checks run = .next { s with port := s.port.tail, resp := .reject r, respValid := true } := by
  rw [accept_rejected h hc, takeWord_finish_of_idle h]

/-- Settles O7: each address occurs once in R30's table, and the gaps between the ranges of the closed set are R48's. -/
theorem addressesDistinctAndClosed : Obligations.AddressesDistinctAndClosed := by
  refine ⟨fun _ _ h => regAddress_injective h, fun _ => isRegAddress_iff, fun a => ?_⟩
  have ha : a.toNat < 256 := a.isLt
  rw [← Bool.not_eq_true, isRegAddress_iff_ranges]
  omega

/-- Settles O24: both raw commands have the check of ADDR as their only one, and its failure is answered in IDLE. -/
theorem rawCommandsRefuseOtherAddresses : Obligations.RawCommandsRefuseOtherAddresses := by
  intro s a b hs ha
  have hc := rawAddress_error ha
  exact ⟨(exec_readRaw a s).trans (accept_rejected_frame hs hc),
    (exec_writeRaw a b s).trans (accept_rejected_frame hs hc)⟩

end Sys2Proof.Machine

/-! The encoding family: how a MASK and the formats divide a word, the round trip, the assembler's examples, the packed
response, the static check and the transform expressions. -/

namespace Sys2Proof

/-! A word and its pattern, piece by piece. -/

/-- Two words in pieces of the same widths are equal exactly when their pieces are. -/
theorem append_eq_append_iff {m n : Nat} {x x' : BitVec m} {y y' : BitVec n} :
    x ++ y = x' ++ y' ↔ x = x' ∧ y = y' := by
  refine ⟨fun h => ⟨?_, ?_⟩, fun ⟨hx, hy⟩ => hx ▸ hy ▸ rfl⟩
  · rw [← BitVec.extractLsb'_append_eq_left (a := x) (b := y), h, BitVec.extractLsb'_append_eq_left]
  · rw [← BitVec.extractLsb'_append_eq_right (a := x) (b := y), h, BitVec.extractLsb'_append_eq_right]

/-- `w` is the word `x` exactly when it has `value` under `mask` (R72). Stated for a piece of a word too, so that a
format's pattern is put together from those of its fields. -/
def MatchIff {n : Nat} (x w mask value : BitVec n) : Prop := x = w ↔ w &&& mask = value

/-- A free field: no bit is tested. -/
theorem MatchIff.free {n : Nat} (w : BitVec n) : MatchIff w w 0 0 := by simp [MatchIff]

/-- A fixed field: every bit is tested. -/
theorem MatchIff.fixed {n : Nat} (v w : BitVec n) : MatchIff v w (BitVec.allOnes n) v := by
  simp [MatchIff, eq_comm]

theorem MatchIff.append {k l : Nat} {x w mask value : BitVec k} {x' w' mask' value' : BitVec l}
    (h : MatchIff x w mask value) (h' : MatchIff x' w' mask' value') :
    MatchIff (x ++ x') (w ++ w') (mask ++ mask') (value ++ value') := by
  simp only [MatchIff, BitVec.and_append, append_eq_append_iff] at h h' ⊢
  rw [h, h']

/-- A word with a 1 in a bit that the mask tests and the match has 0 in does not match. -/
theorem and_mask_ne_of_reserved {w mask value reserved : Word} (hm : mask &&& reserved = reserved)
    (hv : value &&& reserved = 0) (h : w &&& reserved ≠ 0) : w &&& mask ≠ value := by
  intro he
  rw [← hm, ← BitVec.and_assoc, he] at h
  exact h hv

/-! The three formats (R67 to R69). -/

section
variable (w : Word)

/-- R67's division of a word, its must-be-zero bits 15..4 as they are. -/
theorem formatR_pieces : dataField w ++ addrField w ++ w.extractLsb' 4 12 ++ opField w = w := by
  simp only [dataField, addrField, opField, BitVec.extractLsb'_append_extractLsb'_eq_extractLsb' (x := w),
    Nat.reduceAdd, BitVec.extractLsb'_eq_self]

/-- R68's division of a word, its must-be-zero bits 23..9 as they are. -/
theorem formatT_pieces : dataField w ++ w.extractLsb' 9 15 ++ regField w ++ opField w = w := by
  simp only [dataField, regField, opField, BitVec.extractLsb'_append_extractLsb'_eq_extractLsb' (x := w),
    Nat.reduceAdd, BitVec.extractLsb'_eq_self]

/-- R69's division of a word, its must-be-zero bits 23..22 and 15..12 as they are. -/
theorem formatF_pieces :
    dataField w ++ w.extractLsb' 22 2 ++ fvalField w ++ w.extractLsb' 12 4 ++ fldField w ++ regField w ++ opField w =
      w := by
  simp only [dataField, fvalField, fldField, regField, opField,
    BitVec.extractLsb'_append_extractLsb'_eq_extractLsb' (x := w), Nat.reduceAdd, BitVec.extractLsb'_eq_self]

theorem opField_toNat : (opField w).toNat = w.toNat % 16 := by simp [opField]

theorem regField_toNat : (regField w).toNat = w.toNat / 2 ^ 4 % 2 ^ 5 := by
  rw [regField, BitVec.extractLsb'_toNat, Nat.shiftRight_eq_div_pow]

theorem fldField_toNat : (fldField w).toNat = w.toNat / 2 ^ 9 % 2 ^ 3 := by
  rw [fldField, BitVec.extractLsb'_toNat, Nat.shiftRight_eq_div_pow]

theorem addrField_toNat : (addrField w).toNat = w.toNat / 2 ^ 16 % 2 ^ 8 := by
  rw [addrField, BitVec.extractLsb'_toNat, Nat.shiftRight_eq_div_pow]

theorem fvalField_toNat : (fvalField w).toNat = w.toNat / 2 ^ 16 % 2 ^ 6 := by
  rw [fvalField, BitVec.extractLsb'_toNat, Nat.shiftRight_eq_div_pow]

theorem dataField_toNat : (dataField w).toNat = w.toNat / 2 ^ 24 % 2 ^ 8 := by
  rw [dataField, BitVec.extractLsb'_toNat, Nat.shiftRight_eq_div_pow]

end

section
variable (op : Opcode) (reg : BitVec 5) (fld : BitVec 3) (fval : BitVec 6) (addr data : Byte)

/-- A word of format R holds in its fields what it was made of. -/
@[simp] theorem fields_formatR : dataField (formatR op addr data) = data ∧ addrField (formatR op addr data) = addr ∧
    opField (formatR op addr data) = op := by
  obtain ⟨h, hop⟩ := (append_eq_append_iff (m := 28) (n := 4)).mp (formatR_pieces (formatR op addr data))
  obtain ⟨h, -⟩ := (append_eq_append_iff (m := 16) (n := 12)).mp h
  obtain ⟨hdata, haddr⟩ := append_eq_append_iff.mp h
  exact ⟨hdata, haddr, hop⟩

/-- A word of format T holds in its fields what it was made of. -/
@[simp] theorem fields_formatT : dataField (formatT op reg data) = data ∧ regField (formatT op reg data) = reg ∧
    opField (formatT op reg data) = op := by
  obtain ⟨h, hop⟩ := (append_eq_append_iff (m := 28) (n := 4)).mp (formatT_pieces (formatT op reg data))
  obtain ⟨h, hreg⟩ := (append_eq_append_iff (m := 23) (n := 5)).mp h
  obtain ⟨hdata, -⟩ := append_eq_append_iff.mp h
  exact ⟨hdata, hreg, hop⟩

/-- A word of format F holds in its fields what it was made of. -/
@[simp] theorem fields_formatF : dataField (formatF op reg fld fval data) = data ∧
    fvalField (formatF op reg fld fval data) = fval ∧ fldField (formatF op reg fld fval data) = fld ∧
    regField (formatF op reg fld fval data) = reg ∧ opField (formatF op reg fld fval data) = op := by
  obtain ⟨h, hop⟩ := (append_eq_append_iff (m := 28) (n := 4)).mp (formatF_pieces (formatF op reg fld fval data))
  obtain ⟨h, hreg⟩ := (append_eq_append_iff (m := 23) (n := 5)).mp h
  obtain ⟨h, hfld⟩ := (append_eq_append_iff (m := 20) (n := 3)).mp h
  obtain ⟨h, -⟩ := (append_eq_append_iff (m := 16) (n := 4)).mp h
  obtain ⟨h, hfval⟩ := (append_eq_append_iff (m := 10) (n := 6)).mp h
  obtain ⟨hdata, -⟩ := append_eq_append_iff.mp h
  exact ⟨hdata, hfval, hfld, hreg, hop⟩

end

section
variable {w : Word}

/-- Format R's pattern: `OP` and the bits 15..4 are fixed, `DATA` and `ADDR` as the command has them. -/
theorem MatchIff.formatR (op : Opcode) {addr data maskA valueA maskD valueD : Byte}
    (ha : MatchIff addr (addrField w) maskA valueA) (hd : MatchIff data (dataField w) maskD valueD) :
    MatchIff (formatR op addr data) w (maskD ++ maskA ++ BitVec.allOnes 12 ++ BitVec.allOnes 4)
      (valueD ++ valueA ++ 0#12 ++ op) := by
  have h := ((hd.append ha).append (.fixed 0 (w.extractLsb' 4 12))).append (.fixed op (opField w))
  rw [formatR_pieces] at h
  exact h

/-- Format T's pattern: `REG` is free, `DATA` as the command has it. -/
theorem MatchIff.formatT (op : Opcode) {data maskD valueD : Byte} (hd : MatchIff data (dataField w) maskD valueD) :
    MatchIff (formatT op (regField w) data) w (maskD ++ BitVec.allOnes 15 ++ 0#5 ++ BitVec.allOnes 4)
      (valueD ++ 0#15 ++ 0#5 ++ op) := by
  have h := ((hd.append (.fixed 0 (w.extractLsb' 9 15))).append (.free (regField w))).append (.fixed op (opField w))
  rw [formatT_pieces] at h
  exact h

/-- Format F's pattern: `REG`, `FLD` and `DATA` are free, `FVAL` as the command has it. -/
theorem MatchIff.formatF (op : Opcode) {fval maskV valueV : BitVec 6}
    (hv : MatchIff fval (fvalField w) maskV valueV) :
    MatchIff (formatF op (regField w) (fldField w) fval (dataField w)) w
      (0#8 ++ BitVec.allOnes 2 ++ maskV ++ BitVec.allOnes 4 ++ 0#3 ++ 0#5 ++ BitVec.allOnes 4)
      (0#8 ++ 0#2 ++ valueV ++ 0#4 ++ 0#3 ++ 0#5 ++ op) := by
  have h := ((((((MatchIff.free (dataField w)).append (.fixed 0 (w.extractLsb' 22 2))).append hv).append
    (.fixed 0 (w.extractLsb' 12 4))).append (.free (fldField w))).append (.free (regField w))).append
    (.fixed op (opField w))
  rw [formatF_pieces] at h
  exact h

end

/-! R72's ten rows: a word is the encoding of the command with the word's fields exactly when it matches. -/

section
variable (w : Word)

theorem readRaw_match : MatchIff (encode (.readRaw (addrField w))) w 0xFF00FFFF 0x00000001 :=
  .formatR _ (.free _) (.fixed 0 _)

theorem writeRaw_match : MatchIff (encode (.writeRaw (addrField w) (dataField w))) w 0x0000FFFF 0x00000002 :=
  .formatR _ (.free _) (.free _)

theorem readReg_match : MatchIff (encode (.readReg (regField w))) w 0xFFFFFE0F 0x00000003 :=
  .formatT _ (.fixed 0 _)

theorem writeReg_match : MatchIff (encode (.writeReg (regField w) (dataField w))) w 0x00FFFE0F 0x00000004 :=
  .formatT _ (.free _)

theorem editReg_match : MatchIff (encode (.editReg (regField w))) w 0xFFFFFE0F 0x00000005 :=
  .formatT _ (.fixed 0 _)

theorem decode_match : MatchIff (encode (.decode (regField w) (dataField w))) w 0x00FFFE0F 0x00000008 :=
  .formatT _ (.free _)

theorem encode_match : MatchIff (encode (.encode (regField w) (dataField w))) w 0x00FFFE0F 0x00000009 :=
  .formatT _ (.free _)

theorem addressOf_match : MatchIff (encode (.addressOf (regField w))) w 0xFFFFFE0F 0x0000000A :=
  .formatT _ (.fixed 0 _)

theorem getField_match :
    MatchIff (encode (.getField (regField w) (fldField w) (dataField w))) w 0x00FFF00F 0x0000000B :=
  .formatF _ (.fixed 0 _)

theorem setField_match :
    MatchIff (encode (.setField (regField w) (fldField w) (fvalField w) (dataField w))) w 0x00C0F00F 0x0000000C :=
  .formatF _ (.free _)

end

section
variable {w : Word} {p : Pattern} {i : Instr}

/-- R72: whichever row OP selects, the word matches it exactly when it is the encoding of the row's command. -/
theorem patternOf_match (h : patternOf w = some p) : MatchIff (encode p.instr) w p.mask p.value := by
  unfold patternOf at h
  split at h <;> cases h
  · exact readRaw_match w
  · exact writeRaw_match w
  · exact readReg_match w
  · exact writeReg_match w
  · exact editReg_match w
  · exact decode_match w
  · exact encode_match w
  · exact addressOf_match w
  · exact getField_match w
  · exact setField_match w

/-- R71: the row of a command's word is the command's own. -/
theorem patternOf_encode (i : Instr) : ∃ p, patternOf (encode i) = some p ∧ p.instr = i := by
  cases i <;> simp [encode, patternOf]

/-- R73: there is no row for the six reserved opcodes. -/
theorem patternOf_eq_none_iff : patternOf w = none ↔ w.toNat % 16 ∈ [0x0, 0x6, 0x7, 0xD, 0xE, 0xF] := by
  rw [← opField_toNat]
  have hlt := (opField w).isLt
  unfold patternOf
  generalize (opField w).toNat = n at hlt ⊢
  interval_cases n <;> simp

theorem decode_eq_ok_iff : decode w = .ok i ↔ ∃ p, patternOf w = some p ∧ w &&& p.mask = p.value ∧ p.instr = i := by
  unfold decode
  cases patternOf w with
  | none => simp
  | some p => by_cases hm : w &&& p.mask = p.value <;> simp [hm]

theorem decode_nonzeroRsvd (h : patternOf w = some p) (hm : w &&& p.mask ≠ p.value) :
    decode w = .error .nonzeroRsvd := by simp [decode, h, hm]

theorem decode_eq_badOpcode_iff : decode w = .error .badOpcode ↔ patternOf w = none := by
  unfold decode
  cases patternOf w with
  | none => simp
  | some p => by_cases hm : w &&& p.mask = p.value <;> simp [hm]

theorem decode_encode (i : Instr) : decode (encode i) = .ok i := by
  obtain ⟨p, hp, rfl⟩ := patternOf_encode i
  exact decode_eq_ok_iff.mpr ⟨p, hp, (patternOf_match hp).mp rfl, rfl⟩

theorem encode_of_decode (h : decode w = .ok i) : encode i = w := by
  obtain ⟨p, hp, hm, rfl⟩ := decode_eq_ok_iff.mp h
  exact (patternOf_match hp).mpr hm

/-- The two directions of the round trip in one. -/
theorem decode_eq_ok_iff_encode : decode w = .ok i ↔ encode i = w :=
  ⟨encode_of_decode, fun h => h ▸ decode_encode i⟩

/-- Each row tests every bit outside OP that is not free, and has 0 there. -/
theorem patternOf_reserved (h : patternOf w = some p) :
    p.mask &&& (p.mask - 0xF#32) = p.mask - 0xF#32 ∧ p.value &&& (p.mask - 0xF#32) = 0 := by
  unfold patternOf at h
  split at h <;> cases h <;> dsimp only <;> decide

end

/-- Settles O1: OP selects the command's own row, and the encoding matches it. -/
theorem decodeOfEncode : Obligations.DecodeOfEncode := decode_encode

/-- Settles O2: a match fixes every bit that is no operand's. -/
theorem encodeOfDecode : Obligations.EncodeOfDecode := fun _ _ => encode_of_decode

/-- Settles O3: decoding to a command is being its encoding, and each row of R72 tests just that; a 1 in a must-be-zero
bit is outside OP, so it leaves the row selected and unmatched. -/
theorem wordSpellsByPattern : Obligations.WordSpellsByPattern := by
  refine ⟨fun w a b r f x ha hb hr hf hx => ?_, fun w mask op hrow hop hne => ?_⟩
  · rw [← addrField_toNat] at ha
    rw [← dataField_toNat] at hb
    rw [← regField_toNat] at hr
    rw [← fldField_toNat] at hf
    rw [← fvalField_toNat] at hx
    obtain rfl := BitVec.eq_of_toNat_eq ha
    obtain rfl := BitVec.eq_of_toNat_eq hb
    obtain rfl := BitVec.eq_of_toNat_eq hr
    obtain rfl := BitVec.eq_of_toNat_eq hf
    obtain rfl := BitVec.eq_of_toNat_eq hx
    simp only [decode_eq_ok_iff_encode]
    exact ⟨readRaw_match w, writeRaw_match w, readReg_match w, writeReg_match w, editReg_match w, decode_match w,
      encode_match w, addressOf_match w, getField_match w, setField_match w⟩
  · obtain ⟨p, hp, rfl⟩ : ∃ p, patternOf w = some p ∧ p.mask = mask := by
      rw [← opField_toNat] at hop
      simp only [List.mem_cons, Prod.mk.injEq, List.not_mem_nil, or_false] at hrow
      rcases hrow with ⟨rfl, rfl⟩ | ⟨rfl, rfl⟩ | ⟨rfl, rfl⟩ | ⟨rfl, rfl⟩ | ⟨rfl, rfl⟩ | ⟨rfl, rfl⟩ | ⟨rfl, rfl⟩ |
        ⟨rfl, rfl⟩ | ⟨rfl, rfl⟩ | ⟨rfl, rfl⟩ <;> simp [patternOf, hop]
    obtain ⟨hm, hv⟩ := patternOf_reserved hp
    exact decode_nonzeroRsvd hp (and_mask_ne_of_reserved hm hv hne)

end Sys2Proof

namespace Sys2Proof.Machine

/-! Words that spell no command (R73, R155). -/

/-- R155: a word that spells no command, offered in IDLE, is taken and answered, and nothing else changes. -/
theorem step_rejects_word {s : State} {w : Word} {f : Transform} {subs : List Submission} {r : Reason}
    (hs : s.st = .idle) (hp : s.port = ⟨w, f⟩ :: subs) (hd : decode w = .error r) :
    step s = .next { s with port := subs, resp := .reject r, respValid := true } := by
  have h : step s = .next (s.takeWord.finish (.reject r)) := by simp [step_idle hs, stepIdle, hp, hd]
  rw [h, takeWord_finish_of_idle hs, hp, List.tail_cons]

/-- Settles O4: BAD_OPCODE is the answer where no row of R72 is selected. -/
theorem reservedOpcodesRejected : Obligations.ReservedOpcodesRejected := by
  intro w
  have hiff := decode_eq_badOpcode_iff.trans (patternOf_eq_none_iff (w := w))
  exact ⟨hiff, fun s f subs hs hp hop => step_rejects_word hs hp (hiff.mpr hop)⟩

/-! The assembler's examples (R77). -/

/-- Settles O5: each line is read by evaluation, and each word is the encoding of the line's command. -/
theorem assemblerExamples : Obligations.AssemblerExamples :=
  ⟨by decide +kernel, decode_encode (.readRaw 0x02), by decide +kernel, decode_encode (.writeRaw 0x09 0x55),
    by decide +kernel, decode_encode (.readReg 1), by decide +kernel, decode_encode (.writeReg 1 0x01),
    by decide +kernel, decode_encode (.editReg 1), by decide +kernel, decode_encode (.decode 1 0x19),
    by decide +kernel, decode_encode (.encode 8 0x93), by decide +kernel, decode_encode (.addressOf 16),
    by decide +kernel, decode_encode (.getField 1 1 0x05), by decide +kernel, decode_encode (.setField 1 0 0 0x01)⟩

/-! The packed response (R76). -/

theorem toNat_append_eq_add {m n : Nat} (x : BitVec m) (y : BitVec n) :
    (x ++ y).toNat = x.toNat * 2 ^ n + y.toNat := by
  rw [BitVec.toNat_append, ← Nat.shiftLeft_add_eq_or_of_lt y.isLt, Nat.shiftLeft_eq]

/-- Settles O44: each of the four pieces of the packed word stands above the widths of those below it. -/
theorem responseWordPacks : Obligations.ResponseWordPacks := by
  refine ⟨fun r => ?_, rfl, rfl, fun _ _ _ => rfl⟩
  have h : r.pack.toNat = ((0 * 2 ^ 8 + r.data.toNat) * 2 ^ 4 + r.reasonBits.toNat) * 2 ^ 4 + r.status.code.toNat := by
    simp only [Resp.pack, toNat_append_eq_add, BitVec.toNat_ofNat, Nat.zero_mod]
  omega

/-! The static check (R74, R128): which checks of a command can answer one of its three reasons. -/

/-- A check fails for a reason that the command's fields alone decide. -/
def FailsStatically {α : Type} (x : Except Reason α) : Prop :=
  ∃ r ∈ [Reason.badReg, .badAddr, .readOnly], x = .error r

section
variable {α β : Type}

@[simp] theorem failsStatically_ok (a : α) : ¬FailsStatically (.ok a : Except Reason α) := by simp [FailsStatically]

@[simp] theorem failsStatically_pure (a : α) : ¬FailsStatically (pure a : Except Reason α) := failsStatically_ok a

@[simp] theorem failsStatically_error (r : Reason) :
    FailsStatically (.error r : Except Reason α) ↔ r ∈ [Reason.badReg, .badAddr, .readOnly] := by
  simp [FailsStatically]

/-- A chain of checks fails where its first does, or passes it and fails later (R154). -/
@[simp] theorem failsStatically_bind (x : Except Reason α) (f : α → Except Reason β) :
    FailsStatically (x >>= f) ↔ FailsStatically x ∨ ∃ a, x = .ok a ∧ FailsStatically (f a) := by
  cases x with
  | error r => simp [bind, Except.bind]
  | ok a => simp [bind, Except.bind]

@[simp] theorem failsStatically_map (g : α → β) (x : Except Reason α) :
    FailsStatically (g <$> x) ↔ FailsStatically x := by
  cases x with
  | error r => simp [Functor.map, Except.map]
  | ok a => simp [Functor.map, Except.map]

end

section
variable {c : Catalog} {r : RegId} {e : Entry}

theorem failsStatically_rawAddress {a : Byte} : FailsStatically (rawAddress a) ↔ isRegAddress a = false := by
  cases h : isRegAddress a <;> simp [rawAddress, h]

theorem failsStatically_typeOf {reg : BitVec 5} : FailsStatically (typeOf reg) ↔ regOk reg = false := by
  by_cases h : reg.toNat < 18
  · simp [typeOf_lt h, regOk, h]
  · simp [typeOf_ge h, regOk, h]

@[simp] theorem failsStatically_requireWritable : FailsStatically (requireWritable r) ↔ regWritable r = false := by
  cases h : regWritable r <;> simp [requireWritable, h]

@[simp] theorem failsStatically_entryOf (fld : BitVec 3) : ¬FailsStatically (entryOf c r fld) := by
  unfold entryOf
  split
  · split <;> simp
  · simp

@[simp] theorem failsStatically_requireSettable : ¬FailsStatically (requireSettable e) := by
  unfold requireSettable
  split <;> simp

@[simp] theorem failsStatically_requireLegal (v : Byte) : ¬FailsStatically (requireLegal c r v) := by
  unfold requireLegal
  split <;> simp

@[simp] theorem failsStatically_requireLegalCode (x : BitVec 6) : ¬FailsStatically (requireLegalCode e x) := by
  unfold requireLegalCode
  split <;> simp

@[simp] theorem failsStatically_settableEntry (fld : BitVec 3) :
    FailsStatically (settableEntry c r fld) ↔ regWritable r = false := by
  simp [settableEntry]

/-- Of the checks after REG's, those of a command that only reads are none of the three. -/
theorem failsStatically_typed {α : Type} {reg : BitVec 5} {f : RegId → Except Reason α}
    (hf : ∀ r, ¬FailsStatically (f r)) : FailsStatically (typeOf reg >>= f) ↔ regOk reg = false := by
  simp [hf, failsStatically_typeOf]

/-- Of the checks after REG's, those of a command that sets or writes answer one of the three for a read-only type. -/
theorem failsStatically_writing {α : Type} {reg : BitVec 5} {f : RegId → Except Reason α}
    (hf : ∀ r, FailsStatically (f r) ↔ regWritable r = false) :
    FailsStatically (typeOf reg >>= f) ↔ regOkWritable reg = false := by
  by_cases h : reg.toNat < 18
  · simp [typeOf_lt h, regOkWritable, h, hf]
  · simp [typeOf_ge h, regOkWritable, h]

end

/-- A state that shows no rejection. -/
def State.NotRejected (s : State) : Prop := s.respValid = true → s.resp.status ≠ .rejected

theorem notRejected_of_not_respValid {s : State} (h : s.respValid = false) : s.NotRejected := by
  simp [State.NotRejected, h]

theorem notRejected_finish {s : State} {r : Resp} (h : r.status ≠ .rejected) : (s.finish r).NotRejected := fun _ => h

/-- In IDLE a command is refused for a static reason exactly when one of its checks fails so, where what it does once
they pass shows no rejection. -/
theorem accept_refused_iff {α : Type} {s : State} {checks : Except Reason α} {run : α → State → State}
    (hs : s.st = .idle) (hrun : ∀ x t, (run x t).NotRejected) :
    FailsStatically checks ↔ ∃ r ∈ [Reason.badReg, .badAddr, .readOnly], accept s checks run =
      .next { s with port := s.port.tail, resp := ⟨.rejected, some r, 0, none⟩, respValid := true } := by
  refine exists_congr fun r => and_congr_right fun _ => ⟨accept_rejected_frame hs, fun h => ?_⟩
  cases hc : checks with
  | error q =>
    rw [accept_rejected_frame hs hc] at h
    injection h with h
    injection congrArg (·.resp.reason) h with h
    rw [h]
  | ok x =>
    rw [accept_ok hs hc] at h
    injection h with h
    have hx := hrun x s.takeWord
    rw [h] at hx
    exact absurd rfl (hx rfl)

/-- Settles O45: the static check fails where one of a command's own checks fails for one of the three reasons, and a
command whose checks pass starts or answers something else. -/
theorem illFormedCommandsRefused : Obligations.IllFormedCommandsRefused := by
  intro s i hs
  cases i <;> simp only [exec, execReadRaw, execWriteRaw, execReadReg, execWriteReg, execEditReg, execDecode,
    execEncode, execAddressOf, execGetField, execSetField, Instr.wellFormed]
  case readRaw | writeRaw =>
    exact failsStatically_rawAddress.symm.trans (accept_refused_iff hs fun _ _ => notRejected_of_not_respValid rfl)
  case readReg =>
    exact failsStatically_typeOf.symm.trans (accept_refused_iff hs fun _ _ => notRejected_of_not_respValid rfl)
  case writeReg | editReg =>
    refine (failsStatically_writing fun r => ?_).symm.trans
      (accept_refused_iff hs fun _ _ => notRejected_of_not_respValid rfl)
    simp
  case decode =>
    refine failsStatically_typeOf.symm.trans (accept_refused_iff hs fun r t => ?_)
    split <;> exact notRejected_finish (by simp)
  case addressOf =>
    exact failsStatically_typeOf.symm.trans (accept_refused_iff hs fun _ _ => notRejected_finish (by simp))
  case encode | getField =>
    refine (failsStatically_typed fun r => ?_).symm.trans
      (accept_refused_iff hs fun _ _ => notRejected_finish (by simp))
    simp
  case setField =>
    refine (failsStatically_writing fun r => ?_).symm.trans
      (accept_refused_iff hs fun _ _ => notRejected_finish (by simp))
    simp

end Sys2Proof.Machine

namespace Sys2Proof

/-! The transform expressions (R78). -/

theorem Transform.typed_iff {c : Catalog} {r : RegId} {f : Transform} :
    f.typed c r = true ↔ ∀ v, c.legal r v = true → c.legal r (f.apply v) = true :=
  ⟨fun h _ => Transform.typed_apply h, Transform.typed_of⟩

section
variable {e : Entry} {v : Byte}

/-- R91: a one-bit entry's field mask is its one bit. -/
theorem Entry.fmask_eq_twoPow (hw : e.width = 1) : e.fmask = BitVec.twoPow 8 e.off := by
  simp [Entry.fmask, lowMask, hw, BitVec.twoPow]

/-- R91: a one-bit entry's value is its bit. -/
theorem Entry.fieldVal_eq_bit (hw : e.width = 1) (hoff : e.off + e.width ≤ 8) :
    e.fieldVal v = if v.getLsbD e.off then 1 else 0 := by
  apply BitVec.eq_of_toNat_eq
  rw [Entry.fieldVal_toNat v hoff, hw, BitVec.getLsbD, Nat.testBit_eq_decide_div_mod_eq]
  rcases Nat.mod_two_eq_zero_or_one (v.toNat / 2 ^ e.off) with h | h <;> simp [h]

/-- R78: setting a one-bit entry to 1 minus its value inverts its bit and no other. -/
theorem Entry.setField_inverse (hw : e.width = 1) (hoff : e.off + e.width ≤ 8) :
    e.setField v (1 - e.fieldVal v) = v ^^^ e.fmask := by
  have hbit : (1 - e.fieldVal v) <<< e.off = ~~~v &&& e.fmask := by
    have hlt : e.off < 8 := by omega
    rw [Entry.fieldVal_eq_bit hw hoff, Entry.fmask_eq_twoPow hw, BitVec.and_twoPow, BitVec.getLsbD_not]
    cases v.getLsbD e.off <;> simp [hlt, BitVec.twoPow]
  rw [Entry.setField, hbit]
  ext k hk
  cases h : v[k] <;> simp [h]

/-- R87: a legal code is an entry's that has codes, so the entry is no reserved range. -/
theorem Entry.kind_ne_rsv_of_legalCode {n : Nat} (h : e.legalCode n = true) : e.kind ≠ .rsv := by
  intro hk
  simp [Entry.legalCode, hk] at h

/-- R87: a BOOL entry of a layout is one bit. -/
theorem Catalog.width_of_bool {c : Catalog} {r : RegId} (h : e ∈ (c.spec r).layout) (hk : e.kind = .bool) :
    e.width = 1 := by
  have := Catalog.wf_parts.2.1 e h
  simpa [Entry.kindOk, hk] using this

end

end Sys2Proof

namespace Sys2Proof.Machine

section
variable {c : Catalog} {r : RegId} {i : BitVec 3} {x : BitVec 6} {e : Entry}

/-- R104: the entries that SET_FIELD, `set` and `flip` may name. -/
theorem settableEntry_eq_ok_iff : settableEntry c r i = .ok e ↔
    regWritable r = true ∧ (c.spec r).layout[i.toNat]? = some e ∧ e.settable = true ∧ e.kind ≠ .rsv := by
  constructor
  · intro h
    obtain ⟨hw, he, hk, hs⟩ := settableEntry_ok h
    exact ⟨hw, he, hs, hk⟩
  · rintro ⟨hw, he, hs, hk⟩
    exact settableEntry_of hw he hk hs

theorem denote_set_isSome_iff : (∃ f, denote c r (.set i x) = some f) ↔
    ∃ e, settableEntry c r i = .ok e ∧ e.legalCode x.toNat = true := by
  constructor
  · rintro ⟨f, hf⟩
    obtain ⟨e, he, hx, -⟩ := denote_set hf
    exact ⟨e, he, hx⟩
  · rintro ⟨e, he, hx⟩
    simp [denote, he, hx]

theorem denote_flip_isSome_iff : (∃ f, denote c r (.flip i) = some f) ↔
    ∃ e, settableEntry c r i = .ok e ∧ e.kind = .bool := by
  constructor
  · rintro ⟨f, hf⟩
    obtain ⟨e, he, hk, -⟩ := denote_flip hf
    exact ⟨e, he, hk⟩
  · rintro ⟨e, he, hk⟩
    simp [denote, he, hk]

theorem denote_seq_isSome_iff {t1 t2 : XExpr} : (∃ h, denote c r (.seq t1 t2) = some h) ↔
    ∃ f g, denote c r t1 = some f ∧ denote c r t2 = some g ∧ f.typed c r = true := by
  constructor
  · rintro ⟨h, hh⟩
    obtain ⟨f, g, hf, hg, ht, -⟩ := denote_seq hh
    exact ⟨f, g, hf, hg, ht⟩
  · rintro ⟨f, g, hf, hg, ht⟩
    simp [denote, hf, hg, ht]

/-- R78: where `set` is well-formed, in the layout's terms. -/
theorem settable_legalCode_iff : (∃ e, settableEntry c r i = .ok e ∧ e.legalCode x.toNat = true) ↔
    regWritable r = true ∧ ∃ e, (c.spec r).layout[i.toNat]? = some e ∧ e.settable = true ∧
      (e.kind = .bool ∧ x.toNat ≤ 1 ∨ ∃ codes, e.kind = .enum codes ∧ x.toNat ∈ codes) := by
  simp only [settableEntry_eq_ok_iff, ← Entry.legalCode_iff]
  constructor
  · rintro ⟨e, ⟨hw, he, hs, -⟩, hx⟩
    exact ⟨hw, e, he, hs, hx⟩
  · rintro ⟨hw, e, he, hs, hx⟩
    exact ⟨e, ⟨hw, he, hs, Entry.kind_ne_rsv_of_legalCode hx⟩, hx⟩

/-- R78: where `flip` is well-formed, in the layout's terms. -/
theorem settable_bool_iff : (∃ e, settableEntry c r i = .ok e ∧ e.kind = .bool) ↔
    regWritable r = true ∧
      ∃ e, (c.spec r).layout[i.toNat]? = some e ∧ e.settable = true ∧ e.kind = .bool := by
  simp only [settableEntry_eq_ok_iff]
  constructor
  · rintro ⟨e, ⟨hw, he, hs, -⟩, hk⟩
    exact ⟨hw, e, he, hs, hk⟩
  · rintro ⟨hw, e, he, hs, hk⟩
    exact ⟨e, ⟨hw, he, hs, by simp [hk]⟩, hk⟩

/-- In IDLE a command is not rejected exactly when all its checks pass, where what it does then shows no rejection. -/
theorem accept_not_rejected_iff {α : Type} {s : State} {checks : Except Reason α} {run : α → State → State}
    (hs : s.st = .idle) (hrun : ∀ x t, (run x t).resp.status ≠ .rejected) :
    (∃ t, accept s checks run = .next t ∧ t.resp.status ≠ .rejected) ↔ ∃ x, checks = .ok x := by
  cases hc : checks with
  | error q => simp [accept_rejected hs rfl]
  | ok x => simp [accept_ok hs rfl, hrun]

theorem typeOf_eq_ok {reg : BitVec 5} (h : reg.toNat = r.val) : typeOf reg = .ok r := by
  rw [typeOf_lt (h ▸ r.isLt)]
  exact congrArg _ (Fin.ext h)

/-- R104, R154: SET_FIELD of a type with a value of the type has two checks left, those of `set`. -/
theorem exec_setField_not_rejected_iff {s : State} {reg : BitVec 5} {v : Byte} (hs : s.st = .idle)
    (hr : reg.toNat = r.val) (hv : s.catalog.legal r v = true) :
    (∃ t, exec (.setField reg i x v) s = .next t ∧ t.resp.status ≠ .rejected) ↔
      ∃ e, settableEntry s.catalog r i = .ok e ∧ e.legalCode x.toNat = true := by
  simp only [exec, execSetField]
  rw [accept_not_rejected_iff hs fun _ _ => by simp]
  cases he : settableEntry s.catalog r i with
  | error q => simp [typeOf_eq_ok hr, he, bind, Except.bind]
  | ok e =>
    cases hx : e.legalCode x.toNat <;>
      simp [typeOf_eq_ok hr, he, hx, requireLegal, hv, requireLegalCode, bind, Except.bind, pure, Except.pure]

/-- R97: `flip(0)` of CHG_CONFIG0 is well-formed in every layout. -/
theorem denote_flip_chargerEnabled (c : Catalog) : ∃ f, denote c 1 (.flip 0) = some f := by
  have h := c.chargerConfigOk
  simp only [RegSpec.chargerConfigOk, Bool.and_eq_true] at h
  obtain ⟨⟨⟨h, -⟩, -⟩, -⟩ := h
  cases hl : (c.spec 1).layout with
  | nil => simp [hl] at h
  | cons e es =>
    simp only [hl, List.head?_cons, Bool.and_eq_true, decide_eq_true_eq] at h
    obtain ⟨⟨hk, hs⟩, -⟩ := h
    exact denote_flip_isSome_iff.mpr (settable_bool_iff.mpr ⟨by decide, e, by simp [hl], hs, hk⟩)

end

/-- Settles O33, clause by clause: `set` and `flip` make the checks of SET_FIELD on their entry, and an inverted bit is
the entry's one bit. -/
theorem transformExpressionsDenote : Obligations.TransformExpressionsDenote := by
  intro c r
  refine ⟨⟨_, rfl, Transform.apply_identity⟩, fun _ => rfl, fun i x => ⟨?_, ?_, fun f v hf => ?_⟩,
    fun i => ⟨?_, fun f v hf => ?_⟩, fun t1 t2 => ⟨?_, fun h v hh => ?_⟩, denote_flip_chargerEnabled c⟩
  · exact denote_set_isSome_iff.trans settable_legalCode_iff
  · rintro s reg v hs rfl hr hv
    exact denote_set_isSome_iff.trans (exec_setField_not_rejected_iff hs hr hv).symm
  · obtain ⟨e, he, -, ha⟩ := denote_set hf
    obtain ⟨-, he, -⟩ := settableEntry_ok he
    exact ⟨e, he, ha v⟩
  · exact denote_flip_isSome_iff.trans settable_bool_iff
  · obtain ⟨e, he, hk, ha⟩ := denote_flip hf
    obtain ⟨-, he, -⟩ := settableEntry_ok he
    have hmem := List.mem_of_getElem? he
    exact ⟨e, he, (ha v).trans (Entry.setField_inverse (Catalog.width_of_bool hmem hk) (Catalog.entry_fits hmem))⟩
  · simp only [denote_seq_isSome_iff, Transform.typed_iff]
  · obtain ⟨f, g, hf, hg, -, ha⟩ := denote_seq hh
    exact ⟨f, g, hf, hg, ha v⟩

end Sys2Proof.Machine

/-! The catalog family: the tiling of a layout, the bit-field functions bit by bit, the laws of Encode and SetField, the
catalog commands and the edit scenario. -/

namespace Sys2Proof

/-! The tiling (R86). -/

/-- R86: the bits an entry covers. -/
abbrev Entry.Covers (e : Entry) (k : Nat) : Prop := e.off ≤ k ∧ k < e.off + e.width

section
variable {e q : Entry} {es : List Entry} {pos i j k : Nat}

@[simp] theorem tilesFrom_nil : tilesFrom pos [] = true ↔ pos = 8 := by simp [tilesFrom]

@[simp] theorem tilesFrom_cons :
    tilesFrom pos (e :: es) = true ↔ e.off = pos ∧ tilesFrom (pos + e.width) es = true := by simp [tilesFrom]

theorem tilesFrom_widths (h : tilesFrom pos es = true) : pos + (es.map (·.width)).sum = 8 := by
  induction es generalizing pos with
  | nil => simpa using h
  | cons e es ih =>
    have := ih (tilesFrom_cons.mp h).2
    simp only [List.map_cons, List.sum_cons]
    omega

theorem tilesFrom_head_off (h : tilesFrom pos es = true) (he : es.head? = some e) : e.off = pos := by
  obtain ⟨es, rfl⟩ := List.head?_eq_some_iff.mp he
  exact (tilesFrom_cons.mp h).1

theorem tilesFrom_last_end (h : tilesFrom pos es = true) (he : es.getLast? = some e) : e.off + e.width = 8 := by
  induction es generalizing pos with
  | nil => simp at he
  | cons q es ih =>
    obtain ⟨hoff, htl⟩ := tilesFrom_cons.mp h
    cases es with
    | nil =>
      obtain rfl : q = e := by simpa using he
      rw [hoff]
      exact tilesFrom_nil.mp htl
    | cons q' es => exact ih htl (by simpa using he)

/-- R86: each entry starts where the one before it ends. -/
theorem tilesFrom_next_off (h : tilesFrom pos es = true) (he : es[i]? = some e) (hq : es[i + 1]? = some q) :
    q.off = e.off + e.width := by
  induction es generalizing pos i with
  | nil => simp at he
  | cons e' es ih =>
    obtain ⟨hoff, htl⟩ := tilesFrom_cons.mp h
    cases i with
    | zero =>
      obtain rfl : e' = e := by simpa using he
      rw [hoff]
      exact tilesFrom_head_off htl (by simpa [List.head?_eq_getElem?] using hq)
    | succ i => exact ih htl (by simpa using he) (by simpa using hq)

/-- R86: of two entries, the later one starts where the earlier one ends, or after. -/
theorem tilesFrom_pairwise (h : tilesFrom pos es = true) : es.Pairwise fun e q => e.off + e.width ≤ q.off := by
  induction es generalizing pos with
  | nil => exact .nil
  | cons e es ih =>
    obtain ⟨rfl, htl⟩ := tilesFrom_cons.mp h
    exact .cons (fun q hq => ((tilesFrom_fits htl).2 q hq).1) (ih htl)

/-- R86: every bit from `pos` on is covered. -/
theorem tilesFrom_covers (h : tilesFrom pos es = true) (hpos : pos ≤ k) (hk : k < 8) :
    ∃ (i : Nat) (e : Entry), es[i]? = some e ∧ e.Covers k := by
  induction es generalizing pos with
  | nil => have := tilesFrom_nil.mp h; omega
  | cons e es ih =>
    obtain ⟨hoff, htl⟩ := tilesFrom_cons.mp h
    by_cases hke : k < pos + e.width
    · exact ⟨0, e, rfl, by omega, by omega⟩
    · obtain ⟨i, q, hq, hc⟩ := ih htl (by omega)
      exact ⟨i + 1, q, hq, hc⟩

/-- R86: no two entries cover the same bit. -/
theorem tilesFrom_covers_unique (h : tilesFrom pos es = true) (he : es[i]? = some e) (hq : es[j]? = some q)
    (hek : e.Covers k) (hqk : q.Covers k) : i = j := by
  have hp := List.pairwise_iff_getElem.mp (tilesFrom_pairwise h)
  obtain ⟨hi, rfl⟩ := List.getElem?_eq_some_iff.mp he
  obtain ⟨hj, rfl⟩ := List.getElem?_eq_some_iff.mp hq
  rcases Nat.lt_trichotomy i j with hij | hij | hij
  · have := hp i j hi hj hij
    omega
  · exact hij
  · have := hp j i hj hi hij
    omega

end

section
variable {c : Catalog} {r : RegId} {e q : Entry} {i j k : Nat}

theorem Catalog.tiles (c : Catalog) (r : RegId) : tilesFrom 0 (c.spec r).layout = true := Catalog.wf_parts.1

theorem Catalog.layout_ne_nil (c : Catalog) (r : RegId) : (c.spec r).layout ≠ [] := by
  intro h
  have := c.tiles r
  simp [h] at this

theorem Catalog.covers_unique (he : (c.spec r).layout[i]? = some e) (hq : (c.spec r).layout[j]? = some q)
    (hek : e.Covers k) (hqk : q.Covers k) : i = j := tilesFrom_covers_unique (c.tiles r) he hq hek hqk

/-- R86, of the entries themselves. -/
theorem Catalog.entry_unique (he : e ∈ (c.spec r).layout) (hq : q ∈ (c.spec r).layout) (hek : e.Covers k)
    (hqk : q.Covers k) : e = q := by
  obtain ⟨i, hi⟩ := List.mem_iff_getElem?.mp he
  obtain ⟨j, hj⟩ := List.mem_iff_getElem?.mp hq
  obtain rfl := Catalog.covers_unique hi hj hek hqk
  exact Option.some.inj (hi.symm.trans hj)

end

/-- Settles O8: each fact is the tiling's, by induction along the entries from the bit the next one starts at. -/
theorem entriesTileTheByte : Obligations.EntriesTileTheByte := by
  intro c r
  have ht := c.tiles r
  have hne := c.layout_ne_nil r
  refine ⟨?_, fun i e q he hq => tilesFrom_next_off ht he hq, ?_, ?_, fun k hk => ?_⟩
  · exact ⟨_, List.head?_eq_some_head hne, tilesFrom_head_off ht (List.head?_eq_some_head hne)⟩
  · exact ⟨_, List.getLast?_eq_some_getLast hne, tilesFrom_last_end ht (List.getLast?_eq_some_getLast hne)⟩
  · simpa using tilesFrom_widths ht
  · obtain ⟨i, e, he, hek⟩ := tilesFrom_covers ht (Nat.zero_le k) hk
    exact ⟨i, ⟨e, he, hek⟩, fun j q hq hle hlt => Catalog.covers_unique hq he ⟨hle, hlt⟩ hek⟩

/-! The bit-field functions, bit by bit (R91, R92, R95, R104). -/

section
variable {e : Entry} {b b' v x : Byte} {k : Nat}

theorem lowMask_getLsbD (w : Nat) (hk : k < 8) : (lowMask w).getLsbD k = decide (k < w) := by
  rw [lowMask, BitVec.getLsbD_ofNat, Nat.testBit_two_pow_sub_one, decide_eq_true hk, Bool.true_and]

/-- R91: `FMASK(e)` holds the bits the entry covers. -/
theorem Entry.fmask_getLsbD (hk : k < 8) : e.fmask.getLsbD k = decide (e.Covers k) := by
  by_cases h : k < e.off
  · simp [Entry.fmask, hk, h]
  · rw [Entry.fmask, BitVec.getLsbD_shiftLeft, lowMask_getLsbD _ (by omega)]
    simp only [hk, h, decide_true, decide_false, Bool.not_false, Bool.true_and, decide_eq_decide]
    omega

/-- R91: `fieldval` reads the bits the entry covers. -/
theorem Entry.fieldVal_getLsbD (hk : k < 8) :
    (e.fieldVal b).getLsbD k = (b.getLsbD (e.off + k) && decide (k < e.width)) := by
  simp [Entry.fieldVal, lowMask_getLsbD _ hk]

/-- R91: a value depends on the bits its entry covers alone. -/
theorem Entry.fieldVal_congr (h : ∀ k, e.Covers k → b.getLsbD k = b'.getLsbD k) : e.fieldVal b = e.fieldVal b' := by
  refine BitVec.eq_of_getLsbD_eq fun k hk => ?_
  rw [Entry.fieldVal_getLsbD hk, Entry.fieldVal_getLsbD hk]
  by_cases hw : k < e.width
  · rw [h (e.off + k) ⟨by omega, by omega⟩]
  · simp [hw]

/-- R93: so does the legality of its code. -/
theorem Entry.admits_congr (h : ∀ k, e.kind ≠ .rsv → e.Covers k → b.getLsbD k = b'.getLsbD k) :
    e.admits b = e.admits b' := by
  unfold Entry.admits
  split
  next codes hk => rw [Entry.fieldVal_congr fun k => h k (by simp [hk])]
  all_goals rfl

/-- A code of `w` bits has no bit from `w` on. -/
theorem getLsbD_of_lt_two_pow {w : Nat} (hx : x.toNat < 2 ^ w) (hk : w ≤ k) : x.getLsbD k = false :=
  Nat.testBit_lt_two_pow (hx.trans_le (Nat.pow_le_pow_right (by decide) hk))

/-- R104: `SetField` puts the code in the bits the entry covers and keeps every other bit. -/
theorem Entry.setField_getLsbD (hx : x.toNat < 2 ^ e.width) (hk : k < 8) :
    (e.setField v x).getLsbD k = if e.Covers k then x.getLsbD (k - e.off) else v.getLsbD k := by
  have hshift : (x <<< e.off).getLsbD k = (decide (e.Covers k) && x.getLsbD (k - e.off)) := by
    by_cases hoff : k < e.off
    · simp [hoff]
    · by_cases hend : k < e.off + e.width
      · rw [BitVec.getLsbD_shiftLeft]
        simp [hk, hoff, hend, Nat.le_of_not_lt hoff]
      · simp [getLsbD_of_lt_two_pow hx (show e.width ≤ k - e.off by omega)]
  rw [Entry.setField, BitVec.getLsbD_or, BitVec.getLsbD_and, BitVec.getLsbD_not, Entry.fmask_getLsbD hk, hshift]
  by_cases hc : e.Covers k <;> simp [hc, hk]

theorem Entry.fieldVal_setField (hx : x.toNat < 2 ^ e.width) (hfit : e.off + e.width ≤ 8) :
    e.fieldVal (e.setField v x) = x := by
  refine BitVec.eq_of_getLsbD_eq fun k hk => ?_
  rw [Entry.fieldVal_getLsbD hk]
  by_cases hw : k < e.width
  · rw [Entry.setField_getLsbD hx (by omega), if_pos ⟨by omega, by omega⟩]
    simp [hw]
  · simp [hw, getLsbD_of_lt_two_pow hx (Nat.le_of_not_lt hw)]

/-- R104: setting the code that is there changes nothing. -/
theorem Entry.setField_fieldVal (hfit : e.off + e.width ≤ 8) : e.setField v (e.fieldVal v) = v := by
  have hlt : (e.fieldVal v).toNat < 2 ^ e.width := by
    rw [Entry.fieldVal_toNat v hfit]
    exact Nat.mod_lt _ (Nat.two_pow_pos _)
  refine BitVec.eq_of_getLsbD_eq fun k hk => ?_
  rw [Entry.setField_getLsbD hlt hk]
  split
  next hc =>
    rw [Entry.fieldVal_getLsbD (by omega), show e.off + (k - e.off) = k by omega]
    simp only [show k - e.off < e.width by omega, decide_true, Bool.and_true]
  next => rfl

/-- R92: the reserved mask is the or of the masks of the RSV entries. -/
theorem reservedMask_getLsbD {es : List Entry} (hk : k < 8) :
    (reservedMask es).getLsbD k = true ↔ ∃ e ∈ es, e.kind = .rsv ∧ e.Covers k := by
  induction es with
  | nil => simp [reservedMask]
  | cons e es ih =>
    rw [reservedMask, BitVec.getLsbD_or, Bool.or_eq_true, ih, List.exists_mem_cons_iff]
    refine or_congr_left ?_
    by_cases hr : e.kind = .rsv <;> simp [hr, Entry.fmask_getLsbD hk]

end

/-- Settles O9: R93 entry by entry, an ENUM entry's bits read as a number. -/
theorem legalIffEveryCodeLegal : Obligations.LegalIffEveryCodeLegal := by
  intro c r b
  rw [Catalog.legal_iff]
  refine forall₂_congr fun e he => ?_
  rw [← Entry.fieldVal_toNat b (Catalog.entry_fits he), Entry.admits]
  split <;> simp_all

/-- Settles O10: the mask of an entry holds the bits it covers, and the or is over the RSV entries. -/
theorem reservedMaskCoversRsvEntries : Obligations.ReservedMaskCoversRsvEntries :=
  fun _ _ _ hk => reservedMask_getLsbD hk

section
variable {c : Catalog} {r : RegId} {e : Entry} {v : Byte} {k : Nat}

/-- R90: the fixed value has no bit outside the reserved mask. -/
theorem Catalog.fixv_of_not_reserved (hk : k < 8) (h : (c.rsvMask r).getLsbD k = false) :
    (c.spec r).fixv.getLsbD k = false := by
  obtain ⟨-, -, -, hfix⟩ := Catalog.wf_parts (c := c) (r := r)
  have hbit : ((c.spec r).fixv &&& ~~~c.rsvMask r).getLsbD k = false := by rw [hfix]; exact BitVec.getLsbD_zero
  simpa only [BitVec.getLsbD_and, BitVec.getLsbD_not, hk, h, decide_true, Bool.not_false, Bool.and_true] using hbit

theorem Catalog.encodeByte_pass (h : (c.spec r).pol = .pass) : c.encodeByte r v = v := by
  simp only [Catalog.encodeByte, RegSpec.encodeByte, h]
  ext k hk
  cases hv : v[k] <;> simp [hv]

theorem Catalog.encodeByte_fixed (h : (c.spec r).pol = .fixed) :
    c.encodeByte r v = (v &&& ~~~c.rsvMask r) ||| (c.spec r).fixv := by
  simp only [Catalog.encodeByte, RegSpec.encodeByte, h, Catalog.rsvMask]

/-- R95: Encode, bit by bit. -/
theorem Catalog.encodeByte_getLsbD (hk : k < 8) : (c.encodeByte r v).getLsbD k =
    if (c.rsvMask r).getLsbD k = true ∧ (c.spec r).pol = .fixed then (c.spec r).fixv.getLsbD k
    else v.getLsbD k := by
  cases hp : (c.spec r).pol with
  | pass => simp [Catalog.encodeByte_pass hp]
  | fixed =>
    rw [Catalog.encodeByte_fixed hp]
    cases hm : (c.rsvMask r).getLsbD k with
    | true => simp [hm]
    | false =>
      simp only [BitVec.getLsbD_or, BitVec.getLsbD_and, BitVec.getLsbD_not, hk, hm, Catalog.fixv_of_not_reserved hk hm,
        decide_true, Bool.not_false, Bool.and_true, Bool.or_false, Bool.false_eq_true, false_and, if_false]

/-- R86: a bit that an entry with a value covers is not reserved. -/
theorem Catalog.rsvMask_of_covers (he : e ∈ (c.spec r).layout) (hr : e.kind ≠ .rsv) (hc : e.Covers k) :
    (c.rsvMask r).getLsbD k = false := by
  have hk : k < 8 := by have := Catalog.entry_fits he; omega
  refine Bool.eq_false_iff.mpr fun hm => ?_
  obtain ⟨q, hq, hqr, hqc⟩ := (reservedMask_getLsbD hk).mp hm
  exact hr (Catalog.entry_unique he hq hc hqc ▸ hqr)

/-- R95: Encode keeps every bit that is not reserved. -/
theorem Catalog.encodeByte_of_covers (he : e ∈ (c.spec r).layout) (hr : e.kind ≠ .rsv) (hc : e.Covers k) :
    (c.encodeByte r v).getLsbD k = v.getLsbD k := by
  have hk : k < 8 := by have := Catalog.entry_fits he; omega
  rw [Catalog.encodeByte_getLsbD hk, Catalog.rsvMask_of_covers he hr hc]
  simp

/-- R106: Encode changes no code. -/
theorem Catalog.legal_encodeByte : c.legal r (c.encodeByte r v) = c.legal r v := by
  rw [Bool.eq_iff_iff, Catalog.legal_iff, Catalog.legal_iff]
  refine forall₂_congr fun e he => ?_
  rw [Entry.admits_congr fun k hr hc => Catalog.encodeByte_of_covers he hr hc]

/-- R98: when a byte is its own encoding. -/
theorem Catalog.encodeByte_eq_self_iff :
    c.encodeByte r v = v ↔ (c.spec r).pol = .pass ∨ v &&& c.rsvMask r = (c.spec r).fixv := by
  cases hp : (c.spec r).pol with
  | pass => simp [Catalog.encodeByte_pass hp]
  | fixed =>
    simp only [reduceCtorEq, false_or, BitVec.eq_of_getLsbD_eq_iff]
    refine forall₂_congr fun k hk => ?_
    rw [Catalog.encodeByte_getLsbD hk]
    cases hm : (c.rsvMask r).getLsbD k with
    | true => simp [hp, hm, eq_comm]
    | false => simp [hm, Catalog.fixv_of_not_reserved hk hm]

end

/-- Settles O11: the fixed value has no bit outside the reserved mask. -/
theorem encodeForcesReservedBits : Obligations.EncodeForcesReservedBits :=
  fun _ _ _ _ hk => Catalog.encodeByte_getLsbD hk

/-- Settles O12: the bits Encode forces are in no ENUM entry. -/
theorem encodeKeepsLegality : Obligations.EncodeKeepsLegality :=
  fun _ _ _ h => Catalog.legal_encodeByte.trans h

/-- R94: the bytes that decode, and to what. -/
theorem Catalog.decodeByte_eq_some_iff {c : Catalog} {r : RegId} {b v : Byte} :
    c.decodeByte r b = some v ↔ c.legal r b = true ∧ b = v := by
  simp [Catalog.decodeByte]

/-- Settles O13: Encode keeps legality, and a legal byte decodes to itself. -/
theorem roundTripLaw : Obligations.RoundTripLaw := by
  intro c r v hv
  obtain ⟨hl, -⟩ := Catalog.decodeByte_eq_some_iff.mp hv
  rw [← Catalog.legal_encodeByte] at hl
  refine ⟨Catalog.decodeByte_legal hl, ?_, Catalog.encodeByte_pass, Catalog.encodeByte_fixed⟩
  rw [Catalog.decodeByte_eq_some_iff, and_iff_right hl, Catalog.encodeByte_eq_self_iff]

section
variable {c : Catalog} {r : RegId} {e q : Entry} {v x : Byte} {i j n : Nat}

/-- R87: a legal code fits in the entry. -/
theorem Catalog.legalCode_lt (he : e ∈ (c.spec r).layout) (hx : e.legalCode n = true) : n < 2 ^ e.width := by
  obtain ⟨-, hkind, -⟩ := Catalog.wf_parts (c := c) (r := r)
  have hk := hkind e he
  rcases Entry.legalCode_iff.mp hx with ⟨hb, hn⟩ | ⟨codes, hb, hn⟩
  · simp only [Catalog.width_of_bool he hb]
    omega
  · simp only [Entry.kindOk, hb, Bool.and_eq_true, List.all_eq_true, decide_eq_true_eq] at hk
    obtain ⟨⟨-, hcodes⟩, -⟩ := hk
    exact hcodes n hn

/-- R93: an entry that holds a legal code is admitted. -/
theorem Entry.admits_of_legalCode (h : e.legalCode (e.fieldVal v).toNat = true) : e.admits v = true := by
  rcases Entry.legalCode_iff.mp h with ⟨hk, -⟩ | ⟨codes, hk, hmem⟩
  · simp [Entry.admits, hk]
  · simpa [Entry.admits, hk] using hmem

/-- R86, R104: `SetField` leaves every bit of every other entry. -/
theorem Catalog.setField_getLsbD_of_ne {k : Nat} (he : (c.spec r).layout[i]? = some e)
    (hq : (c.spec r).layout[j]? = some q) (hij : j ≠ i) (hx : x.toNat < 2 ^ e.width) (hk : q.Covers k) :
    (e.setField v x).getLsbD k = v.getLsbD k := by
  have := Catalog.entry_fits (List.mem_of_getElem? hq)
  rw [Entry.setField_getLsbD hx (by omega), if_neg fun hc => hij (Catalog.covers_unique hq he hk hc)]

/-- R104: a legal value stays legal. -/
theorem Catalog.legal_setField (hv : c.legal r v = true) (he : (c.spec r).layout[i]? = some e)
    (hx : e.legalCode x.toNat = true) : c.legal r (e.setField v x) = true := by
  have hmem := List.mem_of_getElem? he
  have hlt := Catalog.legalCode_lt hmem hx
  refine (Catalog.legal_iff c r _).mpr fun q hq => ?_
  obtain ⟨j, hj⟩ := List.mem_iff_getElem?.mp hq
  by_cases hij : j = i
  · obtain rfl : e = q := by simpa [hij, he] using hj
    exact Entry.admits_of_legalCode (by rwa [Entry.fieldVal_setField hlt (Catalog.entry_fits hmem)])
  · rw [Entry.admits_congr fun k _ hk => Catalog.setField_getLsbD_of_ne he hj hij hlt hk]
    exact (Catalog.legal_iff c r v).mp hv q hq

end

/-- Settles O15: the code goes into the bits its entry covers, and every other entry covers other bits. -/
theorem setFieldReplacesOneEntry : Obligations.SetFieldReplacesOneEntry := by
  intro c r v i e x hv he hx
  have hmem := List.mem_of_getElem? he
  have hfit := Catalog.entry_fits hmem
  have hx8 : (x.setWidth 8).toNat = x.toNat := by simp; omega
  rw [← hx8] at hx
  have hlt := Catalog.legalCode_lt hmem hx
  refine ⟨Catalog.legal_setField hv he hx, ?_, fun j q hji hq => ?_, fun h => ?_⟩
  · rw [← Entry.fieldVal_toNat _ hfit, Entry.fieldVal_setField hlt hfit, hx8]
  · have hqfit := Catalog.entry_fits (List.mem_of_getElem? hq)
    rw [← Entry.fieldVal_toNat _ hqfit, ← Entry.fieldVal_toNat _ hqfit,
      Entry.fieldVal_congr fun k hk => Catalog.setField_getLsbD_of_ne he hq hji hlt hk]
  · rw [← Entry.fieldVal_toNat v hfit, ← hx8] at h
    rw [← BitVec.eq_of_toNat_eq h, Entry.setField_fieldVal hfit]

/-! CHG_CONFIG0 (R97). -/

section
variable (c : Catalog)

/-- R97, part by part. -/
theorem Catalog.chargerConfig_parts :
    (∃ e, (c.spec 1).layout[0]? = some e ∧ e.kind = .bool ∧ e.settable = true ∧ e.name = "charger_enabled") ∧
      (∃ e ∈ (c.spec 1).layout, e.width = 2 ∧ e.kind = .enum [0, 1, 2, 3]) ∧ c.legal 1 0 = true ∧
      ((c.spec 1).pol = .fixed → (c.spec 1).fixv = 0) := by
  have h := c.chargerConfigOk
  simp only [RegSpec.chargerConfigOk, Bool.and_eq_true, List.any_eq_true, Bool.or_eq_true, beq_iff_eq,
    decide_eq_true_eq] at h
  obtain ⟨⟨⟨hhead, hac⟩, hlegal⟩, hfix⟩ := h
  refine ⟨?_, hac, hlegal, fun hp => hfix.resolve_left (by simp [hp])⟩
  rw [← List.head?_eq_getElem?]
  split at hhead
  next e he =>
    simp only [Bool.and_eq_true, beq_iff_eq, decide_eq_true_eq] at hhead
    obtain ⟨⟨hk, hs⟩, hn⟩ := hhead
    exact ⟨e, he, hk, hs, hn⟩
  next => cases hhead

/-- R97: `charger_enabled` is entry 0 of CHG_CONFIG0, its bit 0. -/
theorem Catalog.chargerEnabled : ∃ e, (c.spec 1).layout[0]? = some e ∧ e.name = "charger_enabled" ∧ e.off = 0 ∧
    e.width = 1 ∧ e.kind = .bool ∧ e.settable = true := by
  obtain ⟨⟨e, he, hk, hs, hn⟩, -⟩ := c.chargerConfig_parts
  exact ⟨e, he, hn, tilesFrom_head_off (c.tiles 1) (by rwa [List.head?_eq_getElem?]),
    Catalog.width_of_bool (List.mem_of_getElem? he) hk, hk, hs⟩

theorem Catalog.chargerConfig_legal_zero : c.legal 1 0x00 = true := by
  obtain ⟨-, -, hlegal, -⟩ := c.chargerConfig_parts
  exact hlegal

/-- R97: 0x01 is 0x00 with `charger_enabled` set. -/
theorem Catalog.chargerConfig_legal_one : c.legal 1 0x01 = true := by
  obtain ⟨e, he, -, hoff, hw, hk, -⟩ := c.chargerEnabled
  have hset : e.setField 0x00 0x01 = 0x01 := by simp [Entry.setField, hoff]
  rw [← hset]
  exact Catalog.legal_setField c.chargerConfig_legal_zero he (Entry.legalCode_iff.mpr (.inl ⟨hk, by decide⟩))

/-- R97: a value of CHG_CONFIG0 whose bits above bit 0 are 0 is its own encoding. -/
theorem Catalog.chargerConfig_encodeByte {v : Byte} (hv : ∀ k, k ≠ 0 → v.getLsbD k = false) :
    c.encodeByte 1 v = v := by
  obtain ⟨e, he, -, hoff, hw, hk, -⟩ := c.chargerEnabled
  obtain ⟨-, -, -, hfix⟩ := c.chargerConfig_parts
  refine BitVec.eq_of_getLsbD_eq fun k hk8 => ?_
  by_cases h0 : k = 0
  · exact Catalog.encodeByte_of_covers (List.mem_of_getElem? he) (by simp [hk]) ⟨by omega, by omega⟩
  · rw [Catalog.encodeByte_getLsbD hk8]
    split
    next h => simp [hfix h.2, hv k h0]
    next => rfl

theorem Catalog.chargerConfig_encodeByte_zero : c.encodeByte 1 0x00 = 0x00 :=
  c.chargerConfig_encodeByte fun _ _ => BitVec.getLsbD_zero

theorem Catalog.chargerConfig_encodeByte_one : c.encodeByte 1 0x01 = 0x01 :=
  c.chargerConfig_encodeByte fun k hk => by simp [BitVec.getLsbD_one, hk]

end

/-- Settles O16: 0x00 is legal, so 0 is a code of every ENUM entry; 0x01 sets `charger_enabled` in it, at bit 0, which
is not reserved. -/
theorem chargerConfig0Facts : Obligations.ChargerConfig0Facts := by
  intro c
  obtain ⟨-, hac, hlegal, hfix⟩ := c.chargerConfig_parts
  refine ⟨c.chargerEnabled, hac, fun e he codes hk => ?_, hlegal, c.chargerConfig_legal_one,
    c.chargerConfig_encodeByte_one, c.chargerConfig_encodeByte_zero, hfix⟩
  have := (legalIffEveryCodeLegal c 1 0).mp hlegal e he codes hk
  simpa using this

end Sys2Proof

namespace Sys2Proof.Machine

/-! The response of a catalog command (R100 to R105), as its word and the catalog constants fix it. -/

/-- R155: the response where a command's checks are followed by an answer: that of the first failing check, or the
answer. -/
def respond {α : Type} (checks : Except Reason α) (answer : α → Resp) : Resp :=
  match checks with
  | .error r => .reject r
  | .ok x => answer x

section
variable {α β : Type}

@[simp] theorem respond_error (r : Reason) (answer : α → Resp) : respond (.error r) answer = .reject r := rfl

@[simp] theorem respond_ok (x : α) (answer : α → Resp) : respond (.ok x) answer = answer x := rfl

@[simp] theorem respond_pure (x : α) (answer : α → Resp) : respond (pure x) answer = answer x := rfl

/-- R154: the first failing check answers. -/
theorem respond_bind (x : Except Reason α) (f : α → Except Reason β) (answer : β → Resp) :
    respond (x >>= f) answer = respond x fun a => respond (f a) answer := by
  cases x <;> rfl

theorem respond_consistent {checks : Except Reason α} {answer : α → Resp} (h : ∀ x, (answer x).consistent = true) :
    (respond checks answer).consistent = true := by
  cases checks with
  | error r => rfl
  | ok x => exact h x

/-- R141, R155: the whole next state of a command that ends in its accepting step. -/
theorem accept_respond {s : State} {checks : Except Reason α} {run : α → State → State} {answer : α → Resp}
    (hs : s.st = .idle) (hrun : ∀ x, run x s.takeWord = s.takeWord.finish (answer x)) :
    accept s checks run = .next { s with port := s.port.tail, resp := respond checks answer, respValid := true } := by
  cases hc : checks with
  | error r => exact accept_rejected_frame hs rfl
  | ok x => rw [accept_ok hs rfl, hrun, takeWord_finish_of_idle hs, respond_ok]

end

section
variable (c : Catalog) (reg : BitVec 5) (fld : BitVec 3) (x : BitVec 6) (b : Byte)

/-- R100. -/
def decodeResp : Resp := respond (typeOf reg) fun r => if c.legal r b then .okay b else .unexpected

/-- R101. -/
def encodeResp : Resp :=
  respond (typeOf reg) fun r => respond (requireLegal c r b) fun _ => .okay (c.encodeByte r b)

/-- R102. -/
def addressOfResp : Resp := respond (typeOf reg) fun r => .okay (regAddress r)

/-- R103. -/
def getFieldResp : Resp :=
  respond (typeOf reg) fun r => respond (entryOf c r fld) fun e => respond (requireLegal c r b) fun _ =>
    .okay (e.fieldVal b)

/-- R104, in the order of R154. -/
def setFieldResp : Resp :=
  respond (typeOf reg) fun r => respond (requireWritable r) fun _ => respond (entryOf c r fld) fun e =>
    respond (requireSettable e) fun _ => respond (requireLegal c r b) fun _ => respond (requireLegalCode e x) fun _ =>
    .okay (e.setField b (x.setWidth 8))

end

section
variable {s : State} {reg : BitVec 5} {fld : BitVec 3} {x : BitVec 6} {b : Byte}

theorem exec_decode (hs : s.st = .idle) : exec (.decode reg b) s =
    .next { s with port := s.port.tail, resp := decodeResp s.catalog reg b, respValid := true } := by
  rw [exec, execDecode, decodeResp]
  refine accept_respond hs fun r => ?_
  simp only [State.takeWord_catalog, Catalog.decodeByte]
  by_cases hl : s.catalog.legal r b = true <;> simp [hl]

theorem exec_encode (hs : s.st = .idle) : exec (.encode reg b) s =
    .next { s with port := s.port.tail, resp := encodeResp s.catalog reg b, respValid := true } := by
  rw [exec, execEncode, accept_respond (answer := fun r => .okay (s.catalog.encodeByte r b)) hs fun _ => rfl]
  simp only [respond_bind, respond_pure, encodeResp]

theorem exec_addressOf (hs : s.st = .idle) : exec (.addressOf reg) s =
    .next { s with port := s.port.tail, resp := addressOfResp reg, respValid := true } := by
  rw [exec, execAddressOf, addressOfResp, accept_respond hs fun _ => rfl]

theorem exec_getField (hs : s.st = .idle) : exec (.getField reg fld b) s =
    .next { s with port := s.port.tail, resp := getFieldResp s.catalog reg fld b, respValid := true } := by
  rw [exec, execGetField, accept_respond (answer := fun e => .okay (e.fieldVal b)) hs fun _ => rfl]
  simp only [respond_bind, respond_pure, getFieldResp]

theorem exec_setField (hs : s.st = .idle) : exec (.setField reg fld x b) s =
    .next { s with port := s.port.tail, resp := setFieldResp s.catalog reg fld x b, respValid := true } := by
  rw [exec, execSetField,
    accept_respond (answer := fun e => .okay (e.setField b (x.setWidth 8))) hs fun _ => rfl]
  simp only [respond_bind, respond_pure, settableEntry, setFieldResp]

end

/-- Settles O22: the response is the word's and the catalog's, and it is all that is written. -/
theorem catalogCommandsArePure : Obligations.CatalogCommandsArePure := by
  intro c reg fld x b i hi
  simp only [List.mem_cons, List.not_mem_nil, or_false] at hi
  rcases hi with rfl | rfl | rfl | rfl | rfl
  · refine ⟨decodeResp c reg b, respond_consistent fun r => ?_, ?_⟩
    · split <;> rfl
    · rintro s hs rfl
      exact exec_decode hs
  · refine ⟨encodeResp c reg b, respond_consistent fun _ => respond_consistent fun _ => rfl, ?_⟩
    rintro s hs rfl
    exact exec_encode hs
  · exact ⟨addressOfResp reg, respond_consistent fun _ => rfl, fun s hs _ => exec_addressOf hs⟩
  · refine ⟨getFieldResp c reg fld b,
      respond_consistent fun _ => respond_consistent fun _ => respond_consistent fun _ => rfl, ?_⟩
    rintro s hs rfl
    exact exec_getField hs
  · refine ⟨setFieldResp c reg fld x b,
      respond_consistent fun _ => respond_consistent fun _ => respond_consistent fun _ =>
        respond_consistent fun _ => respond_consistent fun _ => respond_consistent fun _ => rfl, ?_⟩
    rintro s hs rfl
    exact exec_setField hs

/-! What each check answers (R153). -/

section
variable {c : Catalog} {r : RegId} {fld : BitVec 3} {e : Entry} {x : BitVec 6} {b : Byte}

theorem typeOf_eq_badReg {reg : BitVec 5} (h : 18 ≤ reg.toNat) : typeOf reg = .error .badReg :=
  typeOf_ge (Nat.not_lt.mpr h)

theorem entryOf_missing (h : (c.spec r).layout.length ≤ fld.toNat) : entryOf c r fld = .error .badField := by
  simp [entryOf, List.getElem?_eq_none h]

theorem entryOf_rsv (he : (c.spec r).layout[fld.toNat]? = some e) (hk : e.kind = .rsv) :
    entryOf c r fld = .error .badField := by simp [entryOf, he, hk]

theorem entryOf_value (he : (c.spec r).layout[fld.toNat]? = some e) (hk : e.kind ≠ .rsv) :
    entryOf c r fld = .ok e := by simp [entryOf, he, hk]

theorem requireWritable_ro (h : regWritable r = false) : requireWritable r = .error .readOnly := by
  simp [requireWritable, h]

theorem requireWritable_rw (h : regWritable r = true) : requireWritable r = .ok () := by simp [requireWritable, h]

theorem requireSettable_true (h : e.settable = true) : requireSettable e = .ok () := by simp [requireSettable, h]

theorem requireSettable_false (h : e.settable = false) : requireSettable e = .error .fieldNotSettable := by
  simp [requireSettable, h]

theorem requireLegal_true (h : c.legal r b = true) : requireLegal c r b = .ok () := by simp [requireLegal, h]

theorem requireLegal_false (h : c.legal r b = false) : requireLegal c r b = .error .illegalValue := by
  simp [requireLegal, h]

theorem requireLegalCode_true (h : e.legalCode x.toNat = true) : requireLegalCode e x = .ok () := by
  simp [requireLegalCode, h]

theorem requireLegalCode_false (h : ¬e.legalCode x.toNat = true) :
    requireLegalCode e x = .error .illegalFieldValue := by simp [requireLegalCode, h]

end

/-- Settles O17: `typeOf` is the one check, and legality decides the answer. -/
theorem decodeCommandAnswers : Obligations.DecodeCommandAnswers := by
  intro s reg b hs
  rw [exec_decode hs]
  refine ⟨fun hr => ?_, fun r hr hl => ?_, fun r hr hl => ?_⟩
  · rw [decodeResp, typeOf_eq_badReg hr]
    rfl
  · rw [decodeResp, typeOf_eq_ok hr, respond_ok, if_pos hl]
    rfl
  · rw [decodeResp, typeOf_eq_ok hr, respond_ok, hl]
    rfl

/-- Settles O18: two checks, then the answer as the policy gives it. -/
theorem encodeCommandAnswers : Obligations.EncodeCommandAnswers := by
  intro s reg v hs
  rw [exec_encode hs]
  refine ⟨fun hr => ?_, fun r hr hl => ?_, fun r hr hl hp => ?_, fun r hr hl hp => ?_⟩
  · rw [encodeResp, typeOf_eq_badReg hr]
    rfl
  · rw [encodeResp, typeOf_eq_ok hr, respond_ok, requireLegal_false hl]
    rfl
  · rw [encodeResp, typeOf_eq_ok hr, respond_ok, requireLegal_true hl, respond_ok, Catalog.encodeByte_pass hp]
    rfl
  · rw [encodeResp, typeOf_eq_ok hr, respond_ok, requireLegal_true hl, respond_ok, Catalog.encodeByte_fixed hp]
    rfl

/-- R30: the address of each type, by its number. -/
theorem regAddress_table : ∀ p ∈ [(0, 0x01), (1, 0x02), (2, 0x03), (3, 0x04), (4, 0x05), (5, 0x06), (6, 0x07),
    (7, 0x08), (8, 0x09), (9, 0x0A), (10, 0x0B), (11, 0x0C), (12, 0x10), (13, 0x11), (14, 0x12), (15, 0xD0),
    (16, 0xE0), (17, 0xF0)], ∃ r : RegId, r.val = p.1 ∧ regAddress r = BitVec.ofNat 8 p.2 := by decide

/-- Settles O19: `typeOf` is the one check, and R30's table gives the answer. -/
theorem addressOfAnswers : Obligations.AddressOfAnswers := by
  intro s reg hs
  rw [exec_addressOf hs]
  refine ⟨fun hr => ?_, fun n a hna hn => ?_⟩
  · rw [addressOfResp, typeOf_eq_badReg hr]
    rfl
  · obtain ⟨r, hr, ha⟩ := regAddress_table (n, a) hna
    rw [addressOfResp, typeOf_eq_ok (hn.trans hr.symm), respond_ok, ha]
    rfl

/-- Settles O20: each check passes before the next one is made (R154). -/
theorem getFieldAnswers : Obligations.GetFieldAnswers := by
  intro s reg fld v hs
  rw [exec_getField hs]
  refine ⟨fun hr => ?_, fun r hr => ?_⟩
  · rw [getFieldResp, typeOf_eq_badReg hr]
    rfl
  rw [getFieldResp, typeOf_eq_ok hr, respond_ok]
  refine ⟨fun hlen => ?_, fun e he => ⟨fun hk => ?_, fun hk hl => ?_, fun hk hl => ?_⟩⟩
  · rw [entryOf_missing hlen]
    rfl
  · rw [entryOf_rsv he hk]
    rfl
  · rw [entryOf_value he hk, respond_ok, requireLegal_false hl]
    rfl
  · have hval : e.fieldVal v = BitVec.ofNat 8 (v.toNat / 2 ^ e.off % 2 ^ e.width) := by
      rw [← Entry.fieldVal_toNat v (Catalog.entry_fits (List.mem_of_getElem? he)), BitVec.ofNat_toNat,
        BitVec.setWidth_eq]
    rw [entryOf_value he hk, respond_ok, requireLegal_true hl, respond_ok, hval]
    rfl

/-- Settles O21: each check passes before the next one is made (R154); that a settable entry is no reserved range is
the catalog's (R88). -/
theorem setFieldAnswers : Obligations.SetFieldAnswers := by
  intro s reg fld x v hs
  rw [exec_setField hs]
  refine ⟨fun hr => ?_, fun r hr => ?_⟩
  · rw [setFieldResp, typeOf_eq_badReg hr]
    rfl
  rw [setFieldResp, typeOf_eq_ok hr, respond_ok]
  refine ⟨fun hw => ?_, fun hw hlen => ?_, fun e hw he => ?_⟩
  · rw [requireWritable_ro hw]
    rfl
  · rw [requireWritable_rw hw, respond_ok, entryOf_missing hlen]
    rfl
  rw [requireWritable_rw hw, respond_ok]
  have hrsv (hset : e.settable = true) : e.kind ≠ .rsv := (Catalog.settable_entry (List.mem_of_getElem? he) hset).2
  refine ⟨fun hk => ?_, fun hk hset => ?_, fun hset hl => ?_, fun hset hl hk hx => ?_, fun codes hset hl hk hx => ?_,
    fun hset hl hx => ?_⟩
  · rw [entryOf_rsv he hk]
    rfl
  · rw [entryOf_value he hk, respond_ok, requireSettable_false hset]
    rfl
  all_goals rw [entryOf_value he (hrsv hset), respond_ok, requireSettable_true hset, respond_ok]
  · rw [requireLegal_false hl]
    rfl
  all_goals rw [requireLegal_true hl, respond_ok]
  · rw [requireLegalCode_false (by simp [Entry.legalCode, hk, hx])]
    rfl
  · rw [requireLegalCode_false (by simp [Entry.legalCode, hk, hx])]
    rfl
  · rw [requireLegalCode_true (Entry.legalCode_iff.mpr hx)]
    rfl

/-- Settles O14: the entry with the illegal code makes the byte illegal. -/
theorem rejectionLaw : Obligations.RejectionLaw := by
  intro s reg r e codes b hs hr he hk hcode
  have hl : s.catalog.legal r b = false :=
    Bool.eq_false_iff.mpr fun h => hcode ((legalIffEveryCodeLegal s.catalog r b).mp h e he codes hk)
  obtain ⟨-, -, hexec⟩ := decodeCommandAnswers s reg b hs
  exact ⟨Catalog.decodeByte_illegal hl, hexec r hr hl⟩

/-! EDIT_REG, phase by phase (R129, R140). -/

section
variable {s : State} {sub : Submission} {subs : List Submission} {ws : List WriteAnswer} {rs : List ReadAnswer}

theorem step_command {i : Instr} (hs : s.st = .idle) (hp : s.port = sub :: subs) (hd : decode sub.word = .ok i) :
    step s = exec i s := by simp [step_idle hs, stepIdle, hp, hd]

theorem step_rsel_ok (hs : s.st = .rsel) (hw : s.writeAnswers = .ok :: ws) :
    step s = .next { s.didWrite s.a .ok with st := .rfetch } := by
  rw [step_rsel hs, stepRsel, busWrite_answered hw]

theorem step_rfetch_typed {b : Byte} (hs : s.st = .rfetch) (ho : s.op = .readReg ∨ s.op = .editReg)
    (hr : s.readAnswers = .ok b :: rs) : step s = .next { s.didRead (.ok b) with d := b, st := .dec } := by
  have hraw : s.op ≠ .readRaw := by rcases ho with ho | ho <;> simp [ho]
  rw [step_rfetch hs, stepRfetch, busRead_answered hr]
  simp [hraw, ho]

theorem step_dec_edit (hs : s.st = .dec) (ho : s.op = .editReg) (hl : s.catalog.legal s.rid s.d = true) :
    step s = .next { s with v := s.d, st := .xf } := by
  rw [step_dec hs, stepDec, Catalog.decodeByte_legal hl]
  simp [ho]

theorem step_xf_legal (hs : s.st = .xf) (hl : s.catalog.legal s.rid (s.xf.apply s.v) = true) :
    step s = .next { s with v := s.xf.apply s.v, st := .enc } := by
  rw [step_xf hs, stepXf, if_pos hl]

theorem step_wsel_ok (hs : s.st = .wsel) (hw : s.writeAnswers = .ok :: ws) :
    step s = .next { s.didWrite s.a .ok with st := .wdata } := by
  rw [step_wsel hs, stepWsel, busWrite_answered hw]

theorem step_wdata_ok (hs : s.st = .wdata) (hw : s.writeAnswers = .ok :: ws) :
    step s = .next ((s.didWrite s.d .ok).finish (.okay 0)) := by
  rw [step_wdata hs, stepWdata, busWrite_answered hw]

/-! In the two runs `by exact` leaves a hypothesis until the state it speaks of is known from the steps before. -/

/-- R132, R140: ENC to the end, both write phases answered Ok. -/
theorem runSteps_write (hs : s.st = .enc) (hw : s.writeAnswers = .ok :: .ok :: ws) :
    runSteps 3 s = .next { s with
      st := .idle, d := s.catalog.encodeByte s.rid s.v, resp := .okay 0, respValid := true, writeAnswers := ws
      trace := s.trace ++ [.bw 0x48 s.a .ok, .bw 0x48 (s.catalog.encodeByte s.rid s.v) .ok] } := by
  refine (runSteps_succ (step_enc hs)).trans <| (runSteps_succ (step_wsel_ok rfl (by exact hw))).trans <|
    (runSteps_succ (step_wdata_ok rfl (by exact congrArg List.tail hw))).trans ?_
  simp [runSteps, State.finish, State.didWrite, hw, Config.devAddr]

/-- R129, R140: EDIT_REG from RSEL to ENC, both read phases answered Ok with a legal byte, its transform a legal one. -/
theorem runSteps_edit {b : Byte} (hs : s.st = .rsel) (ho : s.op = .editReg) (hw : s.writeAnswers = .ok :: ws)
    (hr : s.readAnswers = .ok b :: rs) (hb : s.catalog.legal s.rid b = true)
    (hx : s.catalog.legal s.rid (s.xf.apply b) = true) :
    runSteps 4 s = .next { s with
      st := .enc, d := b, v := s.xf.apply b, writeAnswers := ws, readAnswers := rs
      trace := s.trace ++ [.bw 0x48 s.a .ok, .br 0x48 (.ok b)] } := by
  refine (runSteps_succ (step_rsel_ok hs hw)).trans <|
    (runSteps_succ (step_rfetch_typed rfl (by exact .inr ho) (by exact hr))).trans <|
    (runSteps_succ (step_dec_edit rfl (by exact ho) (by exact hb))).trans <|
    (runSteps_succ (step_xf_legal rfl (by exact hx))).trans ?_
  simp [runSteps, State.didWrite, State.didRead, hw, hr, Config.devAddr]

end

section
variable {c : Catalog} {f : Transform}

/-- R97, V-L1-1: `flip(0)` of CHG_CONFIG0 takes 0x01 to 0x00. -/
theorem denote_flip_chargerEnabled_apply (hf : denote c 1 (.flip 0) = some f) : f.apply 0x01 = 0x00 := by
  obtain ⟨e, he, -, hf⟩ := denote_flip hf
  obtain ⟨-, he, -⟩ := settableEntry_ok he
  obtain ⟨q, hq, -, hoff, hw, -⟩ := c.chargerEnabled
  obtain rfl : q = e := Option.some.inj (hq.symm.trans he)
  rw [hf, Entry.setField_inverse hw (by omega), Entry.fmask_eq_twoPow hw, hoff]
  rfl

end

/-- The state after EDIT_REG of type `r` is accepted, its transform `f` bound to the word (R129). -/
def State.editing (s : State) (r : RegId) (f : Transform) : State :=
  { s.takeWord.start .editReg .rsel with rid := r, a := regAddress r, xf := f }

theorem exec_editReg {s : State} {reg : BitVec 5} {r : RegId} (hs : s.st = .idle) (hr : reg.toNat = r.val)
    (hw : regWritable r = true) : exec (.editReg reg) s = .next (s.editing r s.offeredXf) := by
  rw [exec, execEditReg, accept_ok hs (x := r)]
  · rfl
  · simp [typeOf_eq_ok hr, requireWritable_rw hw, bind, Except.bind, pure, Except.pure]

/-- Settles O32: one accepting step, EDIT_REG's read side and its write side. -/
theorem editScenarioFlipsChargerEnabled : Obligations.EditScenarioFlipsChargerEnabled := by
  intro s f subs ws rs hs hf hp hw hr
  have hflip := denote_flip_chargerEnabled_apply hf
  have hxf : s.offeredXf = f := by simp [State.offeredXf, hp]
  have haccept : step s = .next (s.editing 1 f) := by
    rw [step_command hs hp (decode_encode (.editReg 1)), exec_editReg (reg := 1) (r := 1) hs rfl rfl, hxf]
  have hread := runSteps_edit (s := s.editing 1 f) rfl rfl hw hr s.catalog.chargerConfig_legal_one
    (hflip ▸ s.catalog.chargerConfig_legal_zero)
  refine ⟨_, (runSteps_succ haccept).trans <| (runSteps_add (k := 3) hread).trans (runSteps_write rfl rfl),
    rfl, rfl, rfl, congrArg List.tail hp, ?_⟩
  have hdata : s.catalog.encodeByte 1 (f.apply 0x01) = 0x00 := by rw [hflip, s.catalog.chargerConfig_encodeByte_zero]
  calc
    _ = s.trace ++ [.bw 0x48 (regAddress 1) .ok, .br 0x48 (.ok 0x01), .bw 0x48 (regAddress 1) .ok,
          .bw 0x48 (s.catalog.encodeByte 1 (f.apply 0x01)) .ok] := List.append_assoc _ _ _
    _ = _ := by rw [hdata]; rfl

end Sys2Proof.Machine

/-! The raw-bus family: the raw commands to their end, the phase that fails and the phase nobody answers. -/

namespace Sys2Proof.Machine

/-! The whole state after an answered phase, the answers left named (R29, R111, R112). -/

section
variable {s : State}

theorem State.didWrite_eq {b : Byte} {r : WriteAnswer} {ws : List WriteAnswer} (h : s.writeAnswers = r :: ws) :
    s.didWrite b r = { s with writeAnswers := ws, trace := s.trace ++ [.bw 0x48 b r] } := by
  simp [State.didWrite, h, Config.devAddr]

theorem State.didRead_eq {r : ReadAnswer} {rs : List ReadAnswer} (h : s.readAnswers = r :: rs) :
    s.didRead r = { s with readAnswers := rs, trace := s.trace ++ [.br 0x48 r] } := by
  simp [State.didRead, h, Config.devAddr]

end

/-! The raw commands: the accepting step (R116, R120), and the run after it when both phases are answered Ok. In the two
runs `by exact` leaves a hypothesis until the state it speaks of is known from the step before. -/

/-- R48: the check of a raw command's ADDR passes on an address of the closed set. -/
theorem rawAddress_eq_ok {a : Byte} (h : isRegAddress a = true) : rawAddress a = .ok a := by
  simp [rawAddress, h]

section
variable {s : State} {b : Byte} {ws : List WriteAnswer} {rs : List ReadAnswer}

/-- R119: the fetch of READ_RAW ends the command. -/
theorem step_rfetch_raw (hs : s.st = .rfetch) (ho : s.op = .readRaw) (hr : s.readAnswers = .ok b :: rs) :
    step s = .next ({ s.didRead (.ok b) with d := b }.finish (.okay b)) := by
  rw [step_rfetch hs, stepRfetch, busRead_answered hr]
  exact if_pos ho

/-- R116, R140: READ_RAW from RSEL to the end, both phases answered Ok. -/
theorem runSteps_readRaw (hs : s.st = .rsel) (ho : s.op = .readRaw) (hw : s.writeAnswers = .ok :: ws)
    (hr : s.readAnswers = .ok b :: rs) :
    runSteps 2 s = .next { s with
      st := .idle, d := b, resp := .okay b, respValid := true, writeAnswers := ws, readAnswers := rs
      trace := s.trace ++ [.bw 0x48 s.a .ok, .br 0x48 (.ok b)] } := by
  refine (runSteps_succ (step_rsel_ok hs hw)).trans <|
    (runSteps_succ (step_rfetch_raw rfl (by exact ho) (by exact hr))).trans ?_
  simp [runSteps, State.finish, State.didWrite, State.didRead, hw, hr, Config.devAddr]

/-- The write side of every command that writes a register, from its select on (R120, R132). -/
theorem runSteps_wsel (hs : s.st = .wsel) (hw : s.writeAnswers = .ok :: .ok :: ws) :
    runSteps 2 s = .next { s with
      st := .idle, resp := .okay 0, respValid := true, writeAnswers := ws
      trace := s.trace ++ [.bw 0x48 s.a .ok, .bw 0x48 s.d .ok] } := by
  refine (runSteps_succ (step_wsel_ok hs hw)).trans <|
    (runSteps_succ (step_wdata_ok rfl (by exact congrArg List.tail hw))).trans ?_
  simp [runSteps, State.finish, State.didWrite, hw, Config.devAddr]

end

/-- Settles O23: ADDR's check passes, and the run from RSEL goes through the select and the fetch. -/
theorem readRawReturnsTheByte : Obligations.ReadRawReturnsTheByte := by
  intro s a hs ha
  refine ⟨(exec_readRaw a s).trans (accept_ok hs (rawAddress_eq_ok ha)), fun b ws rs hw hr => ?_⟩
  rw [hs]
  exact runSteps_readRaw rfl rfl hw hr

/-- Settles O25: ADDR's check passes, and the run from WSEL sends the address and the byte latched in `d`. -/
theorem writeRawSendsTheByte : Obligations.WriteRawSendsTheByte := by
  intro s a b hs ha
  refine ⟨(exec_writeRaw a b s).trans (accept_ok hs (rawAddress_eq_ok ha)), fun ws hw => ?_⟩
  rw [hs]
  exact runSteps_wsel rfl hw

/-! A phase answered Err, and one not answered (R113, R117, R151). -/

section
variable {s : State} {e : BusError} {ws : List WriteAnswer} {rs : List ReadAnswer}

theorem step_select_err (hs : s.st = .rsel ∨ s.st = .wsel) (hw : s.writeAnswers = .err e :: ws) :
    step s = .next ((s.didWrite s.a (.err e)).raiseTransport e) := by
  rcases hs with hs | hs
  · rw [step_rsel hs, stepRsel, busWrite_answered hw]
  · rw [step_wsel hs, stepWsel, busWrite_answered hw]

theorem step_wdata_err (hs : s.st = .wdata) (hw : s.writeAnswers = .err e :: ws) :
    step s = .next ((s.didWrite s.d (.err e)).raiseTransport e) := by
  rw [step_wdata hs, stepWdata, busWrite_answered hw]

theorem step_rfetch_err (hs : s.st = .rfetch) (hr : s.readAnswers = .err e :: rs) :
    step s = .next ((s.didRead (.err e)).raiseTransport e) := by
  rw [step_rfetch hs, stepRfetch, busRead_answered hr]

theorem step_write_unanswered (hs : s.st = .rsel ∨ s.st = .wsel ∨ s.st = .wdata) (hw : s.writeAnswers = []) :
    step s = .next s := by
  rcases hs with hs | hs | hs
  · rw [step_rsel hs, stepRsel, busWrite_unanswered hw]
  · rw [step_wsel hs, stepWsel, busWrite_unanswered hw]
  · rw [step_wdata hs, stepWdata, busWrite_unanswered hw]

theorem step_read_unanswered (hs : s.st = .rfetch) (hr : s.readAnswers = []) : step s = .next s := by
  rw [step_rfetch hs, stepRfetch, busRead_unanswered hr]

/-- A state that one step leaves as it is stays for any number of steps. -/
theorem runSteps_of_step_self (h : step s = .next s) (k : Nat) : runSteps k s = .next s := by
  induction k with
  | zero => rfl
  | succ k ih => rw [runSteps_succ h, ih]

end

/-- Settles O26: each bus state hands its phase's error to `raiseTransport`. -/
theorem failedPhaseEndsTheCommand : Obligations.FailedPhaseEndsTheCommand := by
  refine fun s e => ⟨fun ws hs hw => ?_, fun ws hs hw => ?_, fun rs hs hr => ?_⟩
  · rw [step_select_err hs hw, State.didWrite_eq hw]
    rfl
  · rw [step_wdata_err hs hw, State.didWrite_eq hw]
    rfl
  · rw [step_rfetch_err hs hr, State.didRead_eq hr]
    rfl

/-- Settles O41: a step with no answer left answers the same state, so every run does. -/
theorem unansweredPhaseWaits : Obligations.UnansweredPhaseWaits := fun _ k =>
  ⟨fun hs hw => runSteps_of_step_self (step_write_unanswered hs hw) k,
    fun hs hr => runSteps_of_step_self (step_read_unanswered hs hr) k⟩

end Sys2Proof.Machine

/-! The typed-access family: the typed commands from their accepting step to their end, the rows of R140's table, and
that a running command ends. -/

namespace Sys2Proof

/-- R87: the inverse of a BOOL entry's value is a legal code of it. -/
theorem Entry.legalCode_inverse {e : Entry} {v : Byte} (hk : e.kind = .bool) (hw : e.width = 1)
    (hfit : e.off + e.width ≤ 8) : e.legalCode (1 - e.fieldVal v).toNat = true := by
  refine Entry.legalCode_iff.mpr (.inl ⟨hk, ?_⟩)
  rw [Entry.fieldVal_eq_bit hw hfit]
  cases v.getLsbD e.off <;> simp

end Sys2Proof

namespace Sys2Proof.Machine

/-! A step in IDLE (R140, R141). -/

/-- Settles O37: an empty port has nothing to take, and a word that spells no command is answered with its reason. -/
theorem idleWithoutACommand : Obligations.IdleWithoutACommand := by
  refine ⟨fun s hs hp => ?_, fun s w f subs r hs hp hd => step_rejects_word hs hp hd⟩
  rcases stepIdle_cases hs with ⟨-, h⟩ | ⟨hne, -⟩
  · rw [step_idle hs, h]
  · exact absurd hp hne

theorem decode_of_decodeTableWord {nbits w : Nat} {i : Instr} (h : decodeTableWord nbits w = some i) :
    decode (tableWord nbits w) = .ok i := by
  unfold decodeTableWord at h
  split at h
  · cases h
    assumption
  · cases h

/-- Settles O36: `withFetchWord` puts the table's word at the head of the port, in IDLE. -/
theorem stepRunsTheCommandOffered : Obligations.StepRunsTheCommandOffered :=
  ⟨fun _ _ _ _ _ hs hp hd => step_command hs hp hd,
    fun _ _ _ h => step_command rfl rfl (decode_of_decodeTableWord h)⟩

/-! The rows out of DEC and XF by which a typed command ends before its write (R125, R131, R134). -/

section
variable {s : State}

/-- R131: a byte that is no value of its type ends the command. -/
theorem step_dec_illegal (hs : s.st = .dec) (hl : s.catalog.legal s.rid s.d = false) :
    step s = .next (s.finish .unexpected) := by
  rw [step_dec hs, stepDec, Catalog.decodeByte_illegal hl]
  rfl

/-- R125: READ_REG ends with the value. -/
theorem step_dec_read (hs : s.st = .dec) (ho : s.op = .readReg) (hl : s.catalog.legal s.rid s.d = true) :
    step s = .next ({ s with v := s.d }.finish (.okay s.d)) := by
  rw [step_dec hs, stepDec, Catalog.decodeByte_legal hl]
  exact if_pos ho

/-- R134: an answer of the transform that is no value of the type ends the command. -/
theorem step_xf_illegal (hs : s.st = .xf) (hl : s.catalog.legal s.rid (s.xf.apply s.v) = false) :
    step s = .next (s.finish (.reject .xformIllegal)) := by
  rw [step_xf hs, stepXf, hl]
  rfl

end

/-- Settles O40: the step lemma of each row, with the answer taken off its list. -/
theorem sequencerFollowsTheTable : Obligations.SequencerFollowsTheTable := by
  refine fun s => ⟨fun ws hw => ⟨fun hs => ?_, fun hs => ?_, fun hs => ?_⟩,
    fun hs b rs hr => ⟨fun ho => ?_, fun ho => ?_⟩,
    fun hs => ⟨step_dec_illegal hs, fun hl ho => step_dec_read hs ho hl, fun hl ho => step_dec_edit hs ho hl⟩,
    fun hs => ⟨step_xf_illegal hs, step_xf_legal hs⟩, step_enc⟩
  · rw [step_rsel_ok hs hw, State.didWrite_eq hw]
  · rw [step_wsel_ok hs hw, State.didWrite_eq hw]
  · rw [step_wdata_ok hs hw, State.didWrite_eq hw]
    rfl
  · rw [step_rfetch_raw hs ho hr, State.didRead_eq hr]
    rfl
  · rw [step_rfetch_typed hs ho hr, State.didRead_eq hr]

/-! The accepting step of the typed commands: their checks, one after the other (R154). -/

section
variable {α β : Type} {x : Except Reason α} {f : α → Except Reason β}

/-- R154: a chain of checks answers the first one's reason where it fails. -/
theorem checks_fail {r : Reason} (h : x = .error r) : (x >>= f) = .error r := by rw [h]; rfl

/-- R154: and goes on with the rest where it passes. -/
theorem checks_pass {a : α} (h : x = .ok a) : (x >>= f) = f a := by rw [h]; rfl

end

section
variable (s : State) (reg : BitVec 5) (v : Byte)

/-- R125: READ_REG checks its type alone. -/
theorem exec_readReg_eq : exec (.readReg reg) s = accept s (typeOf reg) fun r t =>
    { t.start .readReg .rsel with rid := r, a := regAddress r } := rfl

/-- R127, R128: WRITE_REG has three checks. -/
theorem exec_writeReg_eq : exec (.writeReg reg v) s = accept s
    (typeOf reg >>= fun r => requireWritable r >>= fun _ => requireLegal s.catalog r v >>= fun _ => pure r) fun r t =>
    { t.start .writeReg .enc with rid := r, a := regAddress r, v := v } := rfl

/-- R128, R129: EDIT_REG has the first two of them. -/
theorem exec_editReg_eq : exec (.editReg reg) s = accept s
    (typeOf reg >>= fun r => requireWritable r >>= fun _ => pure r) fun r t =>
    { t.start .editReg .rsel with rid := r, a := regAddress r, xf := s.offeredXf } := rfl

end

/-- Settles O29: the checks before the failing one pass. -/
theorem typedWritesRefusedBeforeTheBus : Obligations.TypedWritesRefusedBeforeTheBus := by
  intro s reg v hs
  rw [exec_writeReg_eq, exec_editReg_eq]
  refine ⟨fun hr => ?_, fun r hr hw => ?_, fun r hr hw hl => ?_⟩
  · have hbad := typeOf_eq_badReg hr
    exact ⟨accept_rejected_frame hs (checks_fail hbad), accept_rejected_frame hs (checks_fail hbad)⟩
  · rw [checks_pass (typeOf_eq_ok hr), checks_pass (typeOf_eq_ok hr)]
    have hro := requireWritable_ro hw
    exact ⟨accept_rejected_frame hs (checks_fail hro), accept_rejected_frame hs (checks_fail hro)⟩
  · rw [checks_pass (typeOf_eq_ok hr), checks_pass (requireWritable_rw hw)]
    exact accept_rejected_frame hs (checks_fail (requireLegal_false hl))

/-! The runs of the typed commands, their bus phases answered Ok. -/

theorem runSteps_one {s t : State} (h : step s = .next t) : runSteps 1 s = .next t := by
  rw [runSteps_succ h]
  rfl

section
variable {s : State} {b : Byte} {ws : List WriteAnswer} {rs : List ReadAnswer}

/-- R125, R129: the read side that READ_REG and EDIT_REG share, the byte fetched and not yet decoded. -/
def State.fetchedTyped (s : State) (b : Byte) (ws : List WriteAnswer) (rs : List ReadAnswer) : State :=
  { s with
    st := .dec, d := b, writeAnswers := ws, readAnswers := rs
    trace := s.trace ++ [.bw 0x48 s.a .ok, .br 0x48 (.ok b)] }

theorem runSteps_fetchTyped (hs : s.st = .rsel) (ho : s.op = .readReg ∨ s.op = .editReg)
    (hw : s.writeAnswers = .ok :: ws) (hr : s.readAnswers = .ok b :: rs) :
    runSteps 2 s = .next (s.fetchedTyped b ws rs) := by
  refine (runSteps_succ (step_rsel_ok hs hw)).trans <|
    (runSteps_one (step_rfetch_typed rfl (by exact ho) (by exact hr))).trans ?_
  simp [State.fetchedTyped, State.didWrite, State.didRead, hw, hr, Config.devAddr]

/-- R125: READ_REG from RSEL to the end, its byte one that decodes. -/
theorem runSteps_readReg (hs : s.st = .rsel) (ho : s.op = .readReg) (hw : s.writeAnswers = .ok :: ws)
    (hr : s.readAnswers = .ok b :: rs) (hl : s.catalog.legal s.rid b = true) :
    runSteps 3 s = .next ({ s.fetchedTyped b ws rs with v := b }.finish (.okay b)) :=
  (runSteps_add (k := 1) (runSteps_fetchTyped hs (.inl ho) hw hr)).trans (runSteps_one (step_dec_read rfl ho hl))

/-- R131, R135: whichever of the two commands runs, a byte that does not decode ends it after its read phases. -/
theorem runSteps_undecodable (hs : s.st = .rsel) (ho : s.op = .readReg ∨ s.op = .editReg)
    (hw : s.writeAnswers = .ok :: ws) (hr : s.readAnswers = .ok b :: rs) (hl : s.catalog.legal s.rid b = false) :
    runSteps 3 s = .next ((s.fetchedTyped b ws rs).finish .unexpected) :=
  (runSteps_add (k := 1) (runSteps_fetchTyped hs ho hw hr)).trans (runSteps_one (step_dec_illegal rfl hl))

end

/-- Settles O27: the type is the one check; the run is the typed read side and a step out of DEC. -/
theorem readRegDecodesTheByte : Obligations.ReadRegDecodesTheByte := by
  refine ⟨fun s reg hs hr => ?_, fun s reg r hs hr => ⟨?_, fun b ws rs hw hrs => ⟨fun hl => ?_, fun hl => ?_⟩⟩⟩
  · exact (exec_readReg_eq s reg).trans (accept_rejected_frame hs (typeOf_eq_badReg hr))
  · exact (exec_readReg_eq s reg).trans (accept_ok hs (typeOf_eq_ok hr))
  · rw [hs]
    exact runSteps_readReg rfl rfl hw hrs hl
  · rw [hs]
    exact runSteps_undecodable rfl (.inl rfl) hw hrs hl

/-- Settles O28: three checks pass, then the write side from ENC. -/
theorem writeRegSendsTheEncoding : Obligations.WriteRegSendsTheEncoding := by
  refine fun s reg r v hs hr hw hl => ⟨?_, fun ws hws => ?_⟩
  · rw [exec_writeReg_eq, checks_pass (typeOf_eq_ok hr), checks_pass (requireWritable_rw hw),
      checks_pass (requireLegal_true hl)]
    exact accept_ok hs rfl
  · rw [hs]
    exact runSteps_write rfl hws

/-- Settles O31: after the read side the step out of DEC, or the one out of XF, ends the command. -/
theorem editRegAbortsBeforeTheWrite : Obligations.EditRegAbortsBeforeTheWrite := by
  refine fun s b ws rs hs ho hw hr => ⟨fun hl => runSteps_undecodable hs (.inr ho) hw hr hl, fun hl hx => ?_⟩
  exact (runSteps_add (k := 2) (runSteps_fetchTyped hs (.inr ho) hw hr)).trans <|
    (runSteps_succ (step_dec_edit (s := s.fetchedTyped b ws rs) rfl ho hl)).trans (runSteps_one (step_xf_illegal rfl hx))

/-- Settles O30: EDIT_REG's read side and its write side, whatever the transform answers. -/
theorem editRegWritesTheTransformedByte : Obligations.EditRegWritesTheTransformedByte := by
  intro s reg r w f subs hs hp hr hwr
  have hxf : s.offeredXf = f := by simp [State.offeredXf, hp]
  have hediting : s.editing r f = { s with
      st := .rsel, op := 5, rid := r, a := regAddress r, xf := f, respValid := false, port := subs } := by
    simp [State.editing, State.start, State.takeWord, hp]
  rw [exec_editReg hs hr hwr, hxf, ← hediting]
  refine ⟨rfl, fun b ws rs hw hrs hb hx => ?_⟩
  have hread := runSteps_edit (s := s.editing r f) rfl rfl hw hrs hb hx
  rw [(runSteps_add (k := 3) hread).trans (runSteps_write rfl rfl)]
  simp [State.editing, State.start, State.takeWord, hp, hs, Resp.okay]

/-! Transforms without a free function (R134). -/

section
variable {c : Catalog} {r : RegId}

/-- R134, R78: such an expression answers legal values for legal values. -/
theorem denote_plain_legal {x : XExpr} {f : Transform} {v : Byte} (hx : plainExpr x = true)
    (hf : denote c r x = some f) (hv : c.legal r v = true) : c.legal r (f.apply v) = true := by
  induction x generalizing f v with
  | ident =>
    obtain rfl : Transform.identity = f := Option.some.inj hf
    rwa [Transform.apply_identity]
  | set fld code =>
    obtain ⟨e, he, hcode, hf⟩ := denote_set hf
    obtain ⟨-, he, -⟩ := settableEntry_ok he
    rw [hf]
    exact Catalog.legal_setField hv he (by rwa [BitVec.toNat_setWidth_of_le (by decide)])
  | flip fld =>
    obtain ⟨e, he, hk, hf⟩ := denote_flip hf
    obtain ⟨-, he, -⟩ := settableEntry_ok he
    have hmem := List.mem_of_getElem? he
    rw [hf]
    exact Catalog.legal_setField hv he
      (Entry.legalCode_inverse hk (Catalog.width_of_bool hmem hk) (Catalog.entry_fits hmem))
  | seq t1 t2 ih1 ih2 =>
    simp only [plainExpr, Bool.and_eq_true] at hx
    obtain ⟨h1, h2⟩ := hx
    obtain ⟨f1, f2, hf1, hf2, -, hf⟩ := denote_seq hf
    rw [hf]
    exact ih2 h2 hf2 (ih1 h1 hf1 hv)
  | fn g => cases hx

end

/-- Settles O34: the transform's answer is legal, so XF goes on to ENC. -/
theorem plainTransformsNeverIllegal : Obligations.PlainTransformsNeverIllegal := by
  intro s x hx hf hs hv
  have hl := denote_plain_legal hx hf hv
  exact ⟨step_xf_legal hs hl, hl⟩

/-! Accepting a word reads nothing of the last command (R143, R159). -/

section
variable {s t : State}

/-- With a word offered neither the responses nor the latches of two IDLE states need agree. -/
theorem step_offered_agree (h : SameOutside s t) (hs : s.st = .idle) (ht : t.st = .idle) (hp : s.port ≠ []) :
    OutcomesAgree (step s) (step t) := by
  obtain ⟨sub, subs, hp⟩ := List.exists_cons_of_ne_nil hp
  have hp' : t.port = sub :: subs := h.port_eq ▸ hp
  cases hd : decode sub.word with
  | error r =>
    simp only [step_idle hs, step_idle ht, stepIdle, hp, hp', hd]
    exact .next (h.takeWord.finish _)
  | ok i =>
    rw [step_command hs hp hd, step_command ht hp' hd]
    exact exec_agree i h hs ht

theorem OutcomesAgree.of_next {o : StepResult} (h : OutcomesAgree (.next s) o) :
    ∃ t, o = .next t ∧ LiveAgree s t := by
  cases h with
  | next h => exact ⟨_, rfl, h⟩

end

/-- Settles O51: a step in IDLE always answers, and the two answers agree. -/
theorem noErrorPoisonsTheNextCommand : Obligations.NoErrorPoisonsTheNextCommand := by
  intro s t hs ht h hp
  have hagree := step_offered_agree h hs ht hp
  rcases stepIdle_cases hs with ⟨hempty, -⟩ | ⟨-, s', hnext, -⟩
  · exact absurd hempty hp
  · rw [← step_idle hs] at hnext
    rw [hnext] at hagree
    obtain ⟨t', ht', hl⟩ := hagree.of_next
    exact ⟨s', t', hnext, ht', hl⟩

/-! A running command ends: with its phase answered it comes closer to IDLE at every step. -/

/-- R140: the most steps a command can still take from each state. -/
def FsmState.stepsLeft : FsmState → Nat
  | .idle => 0
  | .wdata => 1
  | .wsel => 2
  | .enc => 3
  | .xf => 4
  | .dec => 5
  | .rfetch => 6
  | .rsel => 7

theorem FsmState.stepsLeft_pos {x : FsmState} (h : x ≠ .idle) : 0 < x.stepsLeft := by
  cases x
  case idle => exact absurd rfl h
  all_goals decide

/-- R140: the most bus writes a command can still make from each state. -/
def FsmState.writesLeft : FsmState → Nat
  | .idle => 0
  | .wdata => 1
  | .wsel | .enc | .xf | .dec | .rfetch => 2
  | .rsel => 3

/-- R140: the same of bus reads. -/
def FsmState.readsLeft : FsmState → Nat
  | .idle | .wdata | .wsel | .enc | .xf | .dec => 0
  | .rfetch | .rsel => 1

/-- The bus phase pending in the state, if any, has its answer. -/
def Answered (s : State) : Prop :=
  (s.st = .rsel ∨ s.st = .wsel ∨ s.st = .wdata → s.writeAnswers ≠ []) ∧ (s.st = .rfetch → s.readAnswers ≠ [])

/-- All the bus phases the running command can still make have their answers. -/
def Fed (s : State) : Prop :=
  s.st.writesLeft ≤ s.writeAnswers.length ∧ s.st.readsLeft ≤ s.readAnswers.length

section
variable {s t : State}

theorem Fed.answered (h : Fed s) : Answered s := by
  obtain ⟨hw, hr⟩ := h
  refine ⟨fun hs hnil => ?_, fun hs hnil => ?_⟩
  · rcases hs with hs | hs | hs <;> simp [hs, hnil, FsmState.writesLeft] at hw
  · simp [hs, hnil, FsmState.readsLeft] at hr

/-- Each row of R140's table uses up no more than its own answer. -/
theorem Fed.advances (h : Fed s) (ha : Advances s t) : Fed t := by
  obtain ⟨hw, hr⟩ := h
  cases ha with
  | waits => exact ⟨hw, hr⟩
  | selectFailed | fetchFailed | fetchedRaw | undecodable | decoded | illegalTransform | dataFailed | dataWritten =>
    exact ⟨Nat.zero_le _, Nat.zero_le _⟩
  | readSelected hs | fetched hs | toTransform hs | transformed hs | encoded hs | writeSelected hs =>
    simp only [hs, FsmState.writesLeft, FsmState.readsLeft] at hw hr
    constructor <;> simp [FsmState.writesLeft, FsmState.readsLeft] <;> omega

/-- R140: under the invariant each busy state has a row for what its phase answered, to another state. -/
theorem Inv.step_leaves_state (hi : Inv s) (hs : s.st ≠ .idle) (ha : Answered s) :
    ∃ t, step s = .next t ∧ t.st ≠ s.st := by
  obtain ⟨hw, hr⟩ := ha
  cases hst : s.st
  case idle => exact absurd hst hs
  case rsel =>
    obtain ⟨r, ws, hw⟩ := List.exists_cons_of_ne_nil (hw (.inl hst))
    cases r with
    | ok => exact ⟨_, step_rsel_ok hst hw, nofun⟩
    | err e => exact ⟨_, step_select_err (.inl hst) hw, nofun⟩
  case rfetch =>
    obtain ⟨r, rs, hr⟩ := List.exists_cons_of_ne_nil (hr hst)
    cases r with
    | err e => exact ⟨_, step_rfetch_err hst hr, nofun⟩
    | ok b =>
      rcases hi.readSide (.inr hst) with ⟨ho, -⟩ | ⟨ho, -⟩
      · exact ⟨_, step_rfetch_raw hst ho hr, nofun⟩
      · exact ⟨_, step_rfetch_typed hst (ho.imp_right And.left) hr, nofun⟩
  case dec =>
    cases hl : s.catalog.legal s.rid s.d with
    | false => exact ⟨_, step_dec_illegal hst hl, nofun⟩
    | true =>
      obtain ⟨ho | ⟨ho, -⟩, -⟩ := hi.decLatches hst
      · exact ⟨_, step_dec_read hst ho hl, nofun⟩
      · exact ⟨_, step_dec_edit hst ho hl, nofun⟩
  case xf =>
    cases hl : s.catalog.legal s.rid (s.xf.apply s.v) with
    | false => exact ⟨_, step_xf_illegal hst hl, nofun⟩
    | true => exact ⟨_, step_xf_legal hst hl, nofun⟩
  case enc => exact ⟨_, step_enc hst, nofun⟩
  case wsel =>
    obtain ⟨r, ws, hw⟩ := List.exists_cons_of_ne_nil (hw (.inr (.inl hst)))
    cases r with
    | ok => exact ⟨_, step_wsel_ok hst hw, nofun⟩
    | err e => exact ⟨_, step_select_err (.inr hst) hw, nofun⟩
  case wdata =>
    obtain ⟨r, ws, hw⟩ := List.exists_cons_of_ne_nil (hw (.inr (.inr hst)))
    cases r with
    | ok => exact ⟨_, step_wdata_ok hst hw, nofun⟩
    | err e => exact ⟨_, step_wdata_err hst hw, nofun⟩

/-- R140: and each row leads closer to IDLE. -/
theorem Advances.stepsLeft_lt (h : Advances s t) (hne : t.st ≠ s.st) : t.st.stepsLeft < s.st.stepsLeft := by
  cases h with
  | waits => exact absurd rfl hne
  | selectFailed hs => rcases hs with hs | hs <;> simp [hs, FsmState.stepsLeft]
  | fetchFailed hs | fetchedRaw hs | undecodable hs | decoded hs | illegalTransform hs | dataFailed hs
  | dataWritten hs | readSelected hs | fetched hs | toTransform hs | transformed hs | encoded hs
  | writeSelected hs => simp [hs, FsmState.stepsLeft]

/-- R113: a phase without its answer waits. -/
theorem step_not_answered (h : ¬Answered s) : step s = .next s := by
  simp only [Answered, not_and_or, Classical.not_imp, not_not] at h
  rcases h with ⟨hs, hw⟩ | ⟨hs, hr⟩
  · exact step_write_unanswered hs hw
  · exact step_read_unanswered hs hr

/-- R150: a step that takes a running command to IDLE has written its response. -/
theorem Advances.respValid_of_idle (h : Advances s t) (hs : s.st ≠ .idle) (ht : t.st = .idle) : t.respValid = true := by
  cases h with
  | selectFailed | fetchFailed | fetchedRaw | undecodable | decoded | illegalTransform | dataFailed | dataWritten => rfl
  | waits => exact absurd ht hs
  | readSelected | fetched | toTransform | transformed | encoded | writeSelected => cases ht

/-- R143: a running command whose phases all have their answers runs to its end. -/
theorem Inv.runs_to_idle {n : Nat} (hi : Inv s) (hs : s.st ≠ .idle) (hf : Fed s) (hn : s.st.stepsLeft ≤ n) :
    ∃ k t, k ≤ n ∧ runSteps k s = .next t ∧ t.st = .idle ∧ t.respValid = true ∧ t.resp.consistent = true ∧
      t.port = s.port := by
  induction n generalizing s with
  | zero => exact absurd hn (Nat.not_le.mpr (FsmState.stepsLeft_pos hs))
  | succ n ih =>
    obtain ⟨t, hstep, hne⟩ := hi.step_leaves_state hs hf.answered
    obtain ⟨hidle, -⟩ | ⟨-, ha⟩ := step_next hstep
    · exact absurd hidle hs
    have hit := step_keeps_inv hi hstep
    have hlt := ha.stepsLeft_lt hne
    by_cases ht : t.st = .idle
    · exact ⟨1, t, by omega, runSteps_one hstep, ht, ha.respValid_of_idle hs ht, hit.resp, ha.port_eq⟩
    · obtain ⟨k, u, hk, hrun, hu, hv, hc, hp⟩ := ih hit ht (hf.advances ha) (by omega)
      exact ⟨k + 1, u, by omega, (runSteps_succ hstep).trans hrun, hu, hv, hc, hp.trans ha.port_eq⟩

end

/-- Settles O48: in IDLE a step always answers; a busy step waits where its phase has no answer, and else takes a row. -/
theorem noStopUnderInvariant : Obligations.NoStopUnderInvariant := by
  intro s hi
  by_cases hs : s.st = .idle
  · rw [step_idle hs]
    rcases stepIdle_cases hs with ⟨-, h⟩ | ⟨-, t, h, -⟩
    · exact ⟨s, h⟩
    · exact ⟨t, h⟩
  · by_cases ha : Answered s
    · obtain ⟨t, h, -⟩ := hi.step_leaves_state hs ha
      exact ⟨t, h⟩
    · exact ⟨s, step_not_answered ha⟩

/-- Settles O49: three writes, one read and seven steps are the most that any state of R140's table asks for. -/
theorem everyCommandReturnsToIdle : Obligations.EveryCommandReturnsToIdle := by
  intro s hi hs hw hr
  have hfed : Fed s := by
    constructor
    · exact le_trans (by cases s.st <;> decide) hw
    · exact le_trans (by cases s.st <;> decide) hr
  exact hi.runs_to_idle hs hfed (by cases s.st <;> decide)

end Sys2Proof.Machine

/-! A rejection at accept (R155). -/

namespace Sys2Proof.Machine

/-- R28: in a consistent response the status REJECTED leaves only the reason open. -/
theorem Resp.eq_reject_of_consistent {r : Resp} (hc : r.consistent = true) (hs : r.status = .rejected) :
    ∃ q, r = .reject q := by
  obtain ⟨status, reason, data, terr⟩ := r
  cases hs
  simp only [Resp.consistent, Bool.and_eq_true, Option.isSome_iff_exists, Option.isNone_iff_eq_none,
    beq_iff_eq] at hc
  obtain ⟨⟨⟨q, rfl⟩, rfl⟩, rfl⟩ := hc
  exact ⟨q, rfl⟩

/-- R155: an accepting step that shows a rejection has taken the word and ended the command: one that starts a bus
command shows no response. -/
theorem Accepts.eq_finish_reject {s t : State} (h : Accepts s t) (hv : t.respValid = true)
    (hr : t.resp.status = .rejected) : ∃ r, t = s.takeWord.finish (.reject r) := by
  cases h with
  | rejected r => exact ⟨r, rfl⟩
  | answered resp hc =>
    obtain ⟨r, rfl⟩ := Resp.eq_reject_of_consistent hc hr
    exact ⟨r, rfl⟩
  | readRaw | writeRaw | readReg | writeReg | editReg => cases hv

/-- Settles O38: with a word offered a step out of IDLE is an accepting one, and taking the word and ending the command
in IDLE writes only the port and the response. -/
theorem rejectionTouchesOnlyTheResponse : Obligations.RejectionTouchesOnlyTheResponse := by
  intro s t hs hp hstep hv hr
  obtain ⟨-, ⟨hempty, -⟩ | ⟨-, ha⟩⟩ | ⟨hbusy, -⟩ := step_next hstep
  · exact absurd hempty hp
  · obtain ⟨r, rfl⟩ := ha.eq_finish_reject hv hr
    exact ⟨r, takeWord_finish_of_idle hs _⟩
  · exact absurd hs hbusy

end Sys2Proof.Machine
